-- ==== Sys2Proof/Word.lean ====
section
/-! DEFINITION. The two word widths of the hardware (00_scope.md rule R7).

`Byte` is a u8 and `Word` a u16 of rule R10. Both are bit vectors because software adds, shifts and masks them.
`+` and `-` of these types are addition and subtraction modulo 256 and 65536 (`lo8` and `lo16` of rule R10).
The bit-field and byte-order helpers stand in Decode.lean and Machine/Operands.lean. -/

namespace Sys2Proof

/-- A u8 of rule R10: register halves, memory bytes, port data. -/
abbrev Byte := BitVec 8

/-- A u16 of rule R10: register pairs, memory addresses, port addresses. -/
abbrev Word := BitVec 16

end Sys2Proof
end

