-- ==== Sys2Proof/Config.lean ====
section
/-! DEFINITION. What is fixed for the machine, and what the spec leaves open (00_scope.md rule R8).

The fixed parameters are plain definitions. The open ones are `opaque`: no proof can see a value, so a claim
that mentions one holds for every value of it. -/

namespace Sys2Proof

/-- The kind of a bus event (20_memory.md rule R107). -/
inductive BusKind
  | m1   -- opcode fetch
  | mr   -- memory read
  | mw   -- memory write
  | ior  -- port read
  | iow  -- port write
  deriving DecidableEq, Repr

/-- One event of the trace, `(t, kind, address, value)` (20_memory.md rule R107). `time` is the t-state counter
after the access's contention and fixed cycles. -/
structure BusEvent where
  time  : Nat
  kind  : BusKind
  addr  : Word
  value : Byte
  deriving DecidableEq, Repr

/-- The two values of the parameter `SCF_CCF_XY` (00_scope.md rule R8; 42_alu8.md rule R297). -/
inductive XyRule
  | qRule  -- `Q_RULE`, the source's primary rule
  | fromA  -- `FROM_A`, the permitted simplification
  deriving DecidableEq, Repr, Inhabited

/-- `CONTENTION_TABLE_LEN` = 70930 (rule R8; 92_eei_decisions.md D12). -/
def Config.contentionTableLen : Nat := 70930

/-- `SCF_CCF_XY`, which rule R8 leaves OPEN (92_eei_decisions.md D3): a free value of the model. -/
opaque Config.scfCcfXy : XyRule

/-- `BusIn(p, t, trace)`, the value a port read returns, which rule R8 leaves OPEN: "the value read is a free
input of the step" (92_eei_decisions.md D14). A free value of the model: it depends on the port, on the counter
before the access and on every bus event so far, so each read of a run may return any byte. -/
opaque Config.busIn : Word → Nat → List BusEvent → Byte

end Sys2Proof
end

