-- ==== Sys2Proof/Syntax.lean ====
section
/-! DEFINITION. The instructions, one constructor per row of spec/opcode_table.json (30_encoding.md).

Register numbers, pair numbers and condition numbers are constructors here; bit numbers and the y field of the
duplicate encodings stay numbers below 8. Immediates `n`, `nn` and displacements `d`, `e` stay the bits the
instruction holds. An `(M..)` in a constructor's name marks a memory operand: `ldRMhl` is `LD r,(HL)`. -/

namespace Sys2Proof

/-- The registers of `reg8` (rule R134) without index 6, which is the memory byte at HL. -/
inductive Reg8
  | b | c | d | e | h | l | a
  deriving DecidableEq, Repr

/-- `rp(p)` (rule R135). -/
inductive Rp
  | bc | de | hl | sp
  deriving DecidableEq, Repr

/-- `rp2(p)` (rule R136). -/
inductive Rp2
  | bc | de | hl | af
  deriving DecidableEq, Repr

/-- The condition table `cc(y)` (rule R137). -/
inductive Cond
  | nz | z | nc | c | po | pe | p | m
  deriving DecidableEq, Repr

/-- The four conditions of `JR cc` (rule R137). -/
inductive JrCond
  | nz | z | nc | c
  deriving DecidableEq, Repr

/-- The index register a DD or FD byte selects (rule R130, field `i`). -/
inductive XY
  | ix | iy
  deriving DecidableEq, Repr

/-- A half of an index register: XYh or XYl (48_index.md). -/
inductive Half
  | high | low
  deriving DecidableEq, Repr

/-- `rp(p)` with HL replaced by XY (48_index.md rule R456). -/
inductive RpXY
  | bc | de | xy | sp
  deriving DecidableEq, Repr

/-- The instructions of spec/opcode_table.json. -/
inductive Instr
  -- 8-bit loads (40_load8.md)
  /-- `LD r,r′` (R200). -/
  | ldRR (r : Reg8) (r2 : Reg8)
  /-- `LD r,n` (R201). -/
  | ldRN (r : Reg8) (n : Byte)
  /-- `LD r,(HL)` (R202). -/
  | ldRMhl (r : Reg8)
  /-- `LD (HL),r` (R203). -/
  | ldMhlR (r : Reg8)
  /-- `LD (HL),n` (R204). -/
  | ldMhlN (n : Byte)
  /-- `LD A,(BC)` (R205). -/
  | ldAMbc
  /-- `LD A,(DE)` (R206). -/
  | ldAMde
  /-- `LD A,(nn)` (R207). -/
  | ldAMnn (nn : Word)
  /-- `LD (BC),A` (R208). -/
  | ldMbcA
  /-- `LD (DE),A` (R209). -/
  | ldMdeA
  /-- `LD (nn),A` (R210). -/
  | ldMnnA (nn : Word)
  /-- `LD A,I` (R211). -/
  | ldAI
  /-- `LD A,R` (R212). -/
  | ldAR
  /-- `LD I,A` (R213). -/
  | ldIA
  /-- `LD R,A` (R214). -/
  | ldRA
  -- 16-bit loads, stack and exchange (41_load16_exchange.md)
  /-- `LD rr,nn` (R220). -/
  | ldRpNn (rr : Rp) (nn : Word)
  /-- `LD HL,(nn)` (R221). -/
  | ldHlMnn (nn : Word)
  /-- `LD (nn),HL` (R222). -/
  | ldMnnHl (nn : Word)
  /-- ED form `LD rr,(nn)` (R223). -/
  | ldRpMnn (rr : Rp) (nn : Word)
  /-- ED form `LD (nn),rr` (R224). -/
  | ldMnnRp (rr : Rp) (nn : Word)
  /-- `LD SP,HL` (R225). -/
  | ldSpHl
  /-- `PUSH qq` (R226). -/
  | pushQq (qq : Rp2)
  /-- `POP qq` (R227). -/
  | popQq (qq : Rp2)
  /-- `EX DE,HL` (R228). -/
  | exDeHl
  /-- `EX (SP),HL` (R229). -/
  | exMspHl
  /-- `EX AF,AF′` (R230). -/
  | exAfAf
  /-- `EXX` (R231). -/
  | exx
  -- 8-bit arithmetic and logic (42_alu8.md)
  /-- `ADD A,r` (R250). -/
  | addAR (r : Reg8)
  /-- `ADC A,r` (R251). -/
  | adcAR (r : Reg8)
  /-- `SUB r` (R252). -/
  | subR (r : Reg8)
  /-- `SBC A,r` (R253). -/
  | sbcAR (r : Reg8)
  /-- `AND r` (R254). -/
  | andR (r : Reg8)
  /-- `XOR r` (R255). -/
  | xorR (r : Reg8)
  /-- `OR r` (R256). -/
  | orR (r : Reg8)
  /-- `CP r` (R257). -/
  | cpR (r : Reg8)
  /-- `ADD A,n` (R258). -/
  | addAN (n : Byte)
  /-- `ADC A,n` (R259). -/
  | adcAN (n : Byte)
  /-- `SUB n` (R260). -/
  | subN (n : Byte)
  /-- `SBC A,n` (R261). -/
  | sbcAN (n : Byte)
  /-- `AND n` (R262). -/
  | andN (n : Byte)
  /-- `XOR n` (R263). -/
  | xorN (n : Byte)
  /-- `OR n` (R264). -/
  | orN (n : Byte)
  /-- `CP n` (R265). -/
  | cpN (n : Byte)
  /-- `ADD A,(HL)` (R266). -/
  | addAMhl
  /-- `ADC A,(HL)` (R267). -/
  | adcAMhl
  /-- `SUB (HL)` (R268). -/
  | subMhl
  /-- `SBC A,(HL)` (R269). -/
  | sbcAMhl
  /-- `AND (HL)` (R270). -/
  | andMhl
  /-- `XOR (HL)` (R271). -/
  | xorMhl
  /-- `OR (HL)` (R272). -/
  | orMhl
  /-- `CP (HL)` (R273). -/
  | cpMhl
  /-- `INC r` (R280). -/
  | incR (r : Reg8)
  /-- `INC (HL)` (R281). -/
  | incMhl
  /-- `DEC r` (R282). -/
  | decR (r : Reg8)
  /-- `DEC (HL)` (R283). -/
  | decMhl
  /-- `DAA` (R290). -/
  | daa
  /-- `CPL` (R291). -/
  | cpl
  /-- `NEG`, every y a duplicate (R292). -/
  | neg (y : Fin 8)
  /-- `SCF` (R298). -/
  | scf
  /-- `CCF` (R299). -/
  | ccf
  -- 16-bit arithmetic (43_alu16.md)
  /-- `ADD HL,rr` (R300). -/
  | addHlRp (rr : Rp)
  /-- `ADC HL,rr` (R301). -/
  | adcHlRp (rr : Rp)
  /-- `SBC HL,rr` (R302). -/
  | sbcHlRp (rr : Rp)
  /-- `INC rr` (R303). -/
  | incRp (rr : Rp)
  /-- `DEC rr` (R304). -/
  | decRp (rr : Rp)
  -- rotates, shifts and bit operations (44_rotate_bit.md)
  /-- `RLCA` (R320). -/
  | rlca
  /-- `RRCA` (R321). -/
  | rrca
  /-- `RLA` (R322). -/
  | rla
  /-- `RRA` (R323). -/
  | rra
  /-- `RLC r` (R325). -/
  | rlcR (r : Reg8)
  /-- `RRC r` (R326). -/
  | rrcR (r : Reg8)
  /-- `RL r` (R327). -/
  | rlR (r : Reg8)
  /-- `RR r` (R328). -/
  | rrR (r : Reg8)
  /-- `SLA r` (R329). -/
  | slaR (r : Reg8)
  /-- `SRA r` (R330). -/
  | sraR (r : Reg8)
  /-- `SLL r` (R331). -/
  | sllR (r : Reg8)
  /-- `SRL r` (R332). -/
  | srlR (r : Reg8)
  /-- `RLC (HL)` (R333). -/
  | rlcMhl
  /-- `RRC (HL)` (R334). -/
  | rrcMhl
  /-- `RL (HL)` (R335). -/
  | rlMhl
  /-- `RR (HL)` (R336). -/
  | rrMhl
  /-- `SLA (HL)` (R337). -/
  | slaMhl
  /-- `SRA (HL)` (R338). -/
  | sraMhl
  /-- `SLL (HL)` (R339). -/
  | sllMhl
  /-- `SRL (HL)` (R340). -/
  | srlMhl
  /-- `BIT b,r` (R341). -/
  | bitR (b : Fin 8) (r : Reg8)
  /-- `BIT b,(HL)` (R345). -/
  | bitMhl (b : Fin 8)
  /-- `RES b,r` (R346). -/
  | resR (b : Fin 8) (r : Reg8)
  /-- `RES b,(HL)` (R347). -/
  | resMhl (b : Fin 8)
  /-- `SET b,r` (R348). -/
  | setR (b : Fin 8) (r : Reg8)
  /-- `SET b,(HL)` (R349). -/
  | setMhl (b : Fin 8)
  /-- `RLD` (R350). -/
  | rld
  /-- `RRD` (R351). -/
  | rrd
  -- jumps, calls, returns and restarts (45_control.md)
  /-- `JP nn` (R360). -/
  | jp (nn : Word)
  /-- `JP cc,nn` (R361). -/
  | jpCc (cc : Cond) (nn : Word)
  /-- `JR e` (R362). -/
  | jr (e : Byte)
  /-- `JR cc,e` (R363). -/
  | jrCc (cc : JrCond) (e : Byte)
  /-- `DJNZ e` (R364). -/
  | djnz (e : Byte)
  /-- `JP (HL)` (R365). -/
  | jpHl
  /-- `CALL nn` (R366). -/
  | call (nn : Word)
  /-- `CALL cc,nn` (R367). -/
  | callCc (cc : Cond) (nn : Word)
  /-- `RET` (R368). -/
  | ret
  /-- `RET cc` (R369). -/
  | retCc (cc : Cond)
  /-- `RETN`, y ≠ 1 (R375). -/
  | retn (y : Fin 8)
  /-- `RETI` (R376). -/
  | reti
  /-- `RST p` with p = y × 8 (R377). -/
  | rst (y : Fin 8)
  -- block transfer, search and I/O (46_block.md)
  /-- `LDI` (R392). -/
  | ldi
  /-- `LDD` (R393). -/
  | ldd
  /-- `LDIR` (R394). -/
  | ldir
  /-- `LDDR` (R395). -/
  | lddr
  /-- `CPI` (R396). -/
  | cpi
  /-- `CPD` (R397). -/
  | cpd
  /-- `CPIR` (R398). -/
  | cpir
  /-- `CPDR` (R399). -/
  | cpdr
  /-- `INI` (R401). -/
  | ini
  /-- `IND` (R402). -/
  | ind
  /-- `INIR` (R403). -/
  | inir
  /-- `INDR` (R404). -/
  | indr
  /-- `OUTI` (R405). -/
  | outi
  /-- `OUTD` (R406). -/
  | outd
  /-- `OTIR` (R407). -/
  | otir
  /-- `OTDR` (R408). -/
  | otdr
  -- I/O and CPU control (47_io_cpu_control.md)
  /-- `IN A,(n)` (R420). -/
  | inAMn (n : Byte)
  /-- `IN r,(C)` (R421). -/
  | inRC (r : Reg8)
  /-- `IN F,(C)` (R422). -/
  | inFC
  /-- `OUT (n),A` (R423). -/
  | outMnA (n : Byte)
  /-- `OUT (C),r` (R424). -/
  | outCR (r : Reg8)
  /-- `OUT (C),0` (R425). -/
  | outC0
  /-- `NOP` (R428). -/
  | nop
  /-- `HALT` (R430). -/
  | halt
  /-- `DI` (R431). -/
  | di
  /-- `EI` (R432). -/
  | ei
  /-- `IM 0`, y ∈ {0, 1, 4, 5} (R434). -/
  | im0 (y : Fin 8)
  /-- `IM 1`, y ∈ {2, 6} (R435). -/
  | im1 (y : Fin 8)
  /-- `IM 2`, y ∈ {3, 7} (R436). -/
  | im2 (y : Fin 8)
  /-- an unused ED opcode o (R437, R149). -/
  | edNop (o : Byte)
  -- index-register instructions (48_index.md)
  /-- `LD XY,nn` (R453). -/
  | ldXyNn (x : XY) (nn : Word)
  /-- `LD XY,(nn)` (R454). -/
  | ldXyMnn (x : XY) (nn : Word)
  /-- `LD (nn),XY` (R455). -/
  | ldMnnXy (x : XY) (nn : Word)
  /-- `ADD XY,rr` (R456). -/
  | addXyRp (x : XY) (rr : RpXY)
  /-- `INC XY` (R457). -/
  | incXy (x : XY)
  /-- `DEC XY` (R458). -/
  | decXy (x : XY)
  /-- `INC XYh`, `INC XYl` (R459). -/
  | incHalf (x : XY) (k : Half)
  /-- `DEC XYh`, `DEC XYl` (R460). -/
  | decHalf (x : XY) (k : Half)
  /-- `LD XYh,n`, `LD XYl,n` (R461). -/
  | ldHalfN (x : XY) (k : Half) (n : Byte)
  /-- `INC (XY+d)` (R462). -/
  | incMxy (x : XY) (d : Byte)
  /-- `DEC (XY+d)` (R463). -/
  | decMxy (x : XY) (d : Byte)
  /-- `LD (XY+d),n` (R464). -/
  | ldMxyN (x : XY) (d : Byte) (n : Byte)
  /-- `LD r,r′` where h and l stand for XYh and XYl (R465). -/
  | ldRRHalf (x : XY) (r : Reg8) (r2 : Reg8)
  /-- `LD r,(XY+d)`, r the real register (R466). -/
  | ldRMxy (x : XY) (r : Reg8) (d : Byte)
  /-- `LD (XY+d),r`, r the real register (R467). -/
  | ldMxyR (x : XY) (r : Reg8) (d : Byte)
  /-- `PUSH XY` (R468). -/
  | pushXy (x : XY)
  /-- `POP XY` (R469). -/
  | popXy (x : XY)
  /-- `EX (SP),XY` (R470). -/
  | exMspXy (x : XY)
  /-- `JP (XY)` (R471). -/
  | jpXy (x : XY)
  /-- `LD SP,XY` (R472). -/
  | ldSpXy (x : XY)
  /-- `ADD A,XYh`, `ADD A,XYl` (R474). -/
  | addAHalf (x : XY) (k : Half)
  /-- `ADC A,XYh`, `ADC A,XYl` (R475). -/
  | adcAHalf (x : XY) (k : Half)
  /-- `SUB XYh`, `SUB XYl` (R476). -/
  | subHalf (x : XY) (k : Half)
  /-- `SBC A,XYh`, `SBC A,XYl` (R477). -/
  | sbcAHalf (x : XY) (k : Half)
  /-- `AND XYh`, `AND XYl` (R478). -/
  | andHalf (x : XY) (k : Half)
  /-- `XOR XYh`, `XOR XYl` (R479). -/
  | xorHalf (x : XY) (k : Half)
  /-- `OR XYh`, `OR XYl` (R480). -/
  | orHalf (x : XY) (k : Half)
  /-- `CP XYh`, `CP XYl` (R481). -/
  | cpHalf (x : XY) (k : Half)
  /-- `ADD A,(XY+d)` (R482). -/
  | addAMxy (x : XY) (d : Byte)
  /-- `ADC A,(XY+d)` (R483). -/
  | adcAMxy (x : XY) (d : Byte)
  /-- `SUB (XY+d)` (R484). -/
  | subMxy (x : XY) (d : Byte)
  /-- `SBC A,(XY+d)` (R485). -/
  | sbcAMxy (x : XY) (d : Byte)
  /-- `AND (XY+d)` (R486). -/
  | andMxy (x : XY) (d : Byte)
  /-- `XOR (XY+d)` (R487). -/
  | xorMxy (x : XY) (d : Byte)
  /-- `OR (XY+d)` (R488). -/
  | orMxy (x : XY) (d : Byte)
  /-- `CP (XY+d)` (R489). -/
  | cpMxy (x : XY) (d : Byte)
  /-- `RLC (XY+d)[,r]` (R490). -/
  | rlcMxy (x : XY) (d : Byte) (cp : Option Reg8)
  /-- `RRC (XY+d)[,r]` (R491). -/
  | rrcMxy (x : XY) (d : Byte) (cp : Option Reg8)
  /-- `RL (XY+d)[,r]` (R492). -/
  | rlMxy (x : XY) (d : Byte) (cp : Option Reg8)
  /-- `RR (XY+d)[,r]` (R493). -/
  | rrMxy (x : XY) (d : Byte) (cp : Option Reg8)
  /-- `SLA (XY+d)[,r]` (R494). -/
  | slaMxy (x : XY) (d : Byte) (cp : Option Reg8)
  /-- `SRA (XY+d)[,r]` (R495). -/
  | sraMxy (x : XY) (d : Byte) (cp : Option Reg8)
  /-- `SLL (XY+d)[,r]` (R496). -/
  | sllMxy (x : XY) (d : Byte) (cp : Option Reg8)
  /-- `SRL (XY+d)[,r]` (R497). -/
  | srlMxy (x : XY) (d : Byte) (cp : Option Reg8)
  /-- `BIT b,(XY+d)`, z ignored (R511). -/
  | bitMxy (x : XY) (d : Byte) (b : Fin 8) (z : Fin 8)
  /-- `RES b,(XY+d)[,r]` (R512). -/
  | resMxy (x : XY) (d : Byte) (b : Fin 8) (cp : Option Reg8)
  /-- `SET b,(XY+d)[,r]` (R513). -/
  | setMxy (x : XY) (d : Byte) (b : Fin 8) (cp : Option Reg8)
  /-- a lone DD/FD prefix; q is the byte after it, outside the index map and not part of the instruction (R519). -/
  | lonePrefix (x : XY) (q : Byte)
  deriving DecidableEq, Repr

end Sys2Proof
end

