-- ==== Sys2Proof/WellFormed.lean ====
section
/-! DEFINITION. Which terms of Instr an encoding stands for. Every other term of a constructor not named here is
well formed by its type. -/

namespace Sys2Proof

/-- The unused ED opcodes (30_encoding.md rule R149). -/
def edUnused (o : Byte) : Bool :=
  o.toNat ≤ 0x3F || o == 0x77 || o == 0x7F || (0x80 ≤ o.toNat && o.toNat ≤ 0x9F)
    || (0xA4 ≤ o.toNat && o.toNat ≤ 0xA7) || (0xAC ≤ o.toNat && o.toNat ≤ 0xAF)
    || (0xB4 ≤ o.toNat && o.toNat ≤ 0xB7) || (0xBC ≤ o.toNat && o.toNat ≤ 0xBF) || 0xC0 ≤ o.toNat

/-- The index map, CB included, as 48_index.md rule R451 lists it. -/
def indexMap : List Byte :=
  ([0x09, 0x19, 0x21, 0x22, 0x23, 0x24, 0x25, 0x26, 0x29, 0x2A, 0x2B, 0x2C, 0x2D, 0x2E, 0x34, 0x35, 0x36, 0x39] :
    List Byte)
  ++ [0x44, 0x45, 0x46, 0x4C, 0x4D, 0x4E, 0x54, 0x55, 0x56, 0x5C, 0x5D, 0x5E]
  ++ [0x60, 0x61, 0x62, 0x63, 0x64, 0x65, 0x66, 0x67, 0x68, 0x69, 0x6A, 0x6B, 0x6C, 0x6D, 0x6E, 0x6F]
  ++ [0x70, 0x71, 0x72, 0x73, 0x74, 0x75, 0x77, 0x7C, 0x7D, 0x7E]
  ++ [0x84, 0x85, 0x86, 0x8C, 0x8D, 0x8E, 0x94, 0x95, 0x96, 0x9C, 0x9D, 0x9E]
  ++ [0xA4, 0xA5, 0xA6, 0xAC, 0xAD, 0xAE, 0xB4, 0xB5, 0xB6, 0xBC, 0xBD, 0xBE]
  ++ [0xCB, 0xE1, 0xE3, 0xE5, 0xE9, 0xF9]

/-- An instruction that some encoding of the opcode table stands for. -/
def Instr.wellFormed : Instr → Bool
  | .retn y          => y != 1                                -- ED 4D is RETI (45_control.md rule R375)
  | .im0 y           => y == 0 || y == 1 || y == 4 || y == 5  -- 47_io_cpu_control.md rule R434
  | .im1 y           => y == 2 || y == 6                      -- rule R435
  | .im2 y           => y == 3 || y == 7                      -- rule R436
  | .edNop o         => edUnused o                            -- rule R437
  | .ldRRHalf _ r r2 => r == .h || r == .l || r2 == .h || r2 == .l  -- 48_index.md rule R465
  | .lonePrefix _ q  => !indexMap.contains q                  -- 48_index.md rule R519
  | _                => true

end Sys2Proof
end

