-- ==== Sys2Proof/Decode.lean ====
section
/-! DEFINITION. From bytes to instructions and back (30_encoding.md).

`decodeWindow` reads the four bytes an instruction can span. It is total: "Every byte sequence decodes to a defined
instruction" (rule R151). `decode` reads a list of bytes and rejects, by name, only a list that ends before its
instruction does. `encode` writes an instruction's bytes from the encoding strings of spec/opcode_table.json. -/

namespace Sys2Proof

/-! ### Byte helpers (00_scope.md rules R9, R10) -/

/-- `hi(w) = w[15:8]`. -/
def hiByte (w : Word) : Byte := w.extractLsb' 8 8

/-- `lo(w) = w[7:0]`. -/
def loByte (w : Word) : Byte := w.extractLsb' 0 8

/-- `h:l`, h in the high part. -/
def join (h l : Byte) : Word := h ++ l

/-- `sext_8(d)`, as the 16-bit word that adding it modulo 65536 needs. -/
def sext8 (d : Byte) : Word := d.signExtend 16

/-! ### The split of an opcode byte (rule R131) -/

/-- x = op[7:6]. -/
def opX (op : Byte) : Nat := op.toNat / 64
/-- y = op[5:3]. -/
def opY (op : Byte) : Nat := op.toNat / 8 % 8
/-- z = op[2:0]. -/
def opZ (op : Byte) : Nat := op.toNat % 8
/-- p = y >> 1 = op[5:4]. -/
def opP (op : Byte) : Nat := op.toNat / 16 % 4
/-- q = y & 1 = op[3]. -/
def opQ (op : Byte) : Nat := op.toNat / 8 % 2
/-- The y field as a bit number. -/
def opYFin (op : Byte) : Fin 8 := Fin.ofNat 8 (opY op)
/-- The z field as a number below 8. -/
def opZFin (op : Byte) : Fin 8 := Fin.ofNat 8 (opZ op)

/-! ### Operand tables (rules R134 to R137) -/

/-- `reg8(i)` (rule R134); `none` is index 6, the memory byte at HL. -/
def reg8Of : Nat → Option Reg8
  | 0 => some .b
  | 1 => some .c
  | 2 => some .d
  | 3 => some .e
  | 4 => some .h
  | 5 => some .l
  | 6 => none
  | _ => some .a

/-- `rp(p)` (rule R135). -/
def rpOf : Nat → Rp
  | 0 => .bc
  | 1 => .de
  | 2 => .hl
  | _ => .sp

/-- `rp2(p)` (rule R136). -/
def rp2Of : Nat → Rp2
  | 0 => .bc
  | 1 => .de
  | 2 => .hl
  | _ => .af

/-- `rp(p)` with HL replaced by XY (48_index.md rule R456). -/
def rpXYOf : Nat → RpXY
  | 0 => .bc
  | 1 => .de
  | 2 => .xy
  | _ => .sp

/-- `cc(y)` (rule R137). -/
def condOf : Nat → Cond
  | 0 => .nz
  | 1 => .z
  | 2 => .nc
  | 3 => .c
  | 4 => .po
  | 5 => .pe
  | 6 => .p
  | _ => .m

/-- `cc(y-4)` of JR, from y - 4 (rule R137). -/
def jrCondOf : Nat → JrCond
  | 0 => .nz
  | 1 => .z
  | 2 => .nc
  | _ => .c

/-! ### Operation tables (rule R138) -/

/-- `alu(y) r`. -/
def aluR (y : Nat) (r : Reg8) : Instr :=
  match y with
  | 0 => .addAR r
  | 1 => .adcAR r
  | 2 => .subR r
  | 3 => .sbcAR r
  | 4 => .andR r
  | 5 => .xorR r
  | 6 => .orR r
  | _ => .cpR r

/-- `alu(y) n`. -/
def aluN (y : Nat) (n : Byte) : Instr :=
  match y with
  | 0 => .addAN n
  | 1 => .adcAN n
  | 2 => .subN n
  | 3 => .sbcAN n
  | 4 => .andN n
  | 5 => .xorN n
  | 6 => .orN n
  | _ => .cpN n

/-- `alu(y) (HL)`. -/
def aluMhl (y : Nat) : Instr :=
  match y with
  | 0 => .addAMhl
  | 1 => .adcAMhl
  | 2 => .subMhl
  | 3 => .sbcAMhl
  | 4 => .andMhl
  | 5 => .xorMhl
  | 6 => .orMhl
  | _ => .cpMhl

/-- `alu(y)` on an index half. -/
def aluHalf (y : Nat) (x : XY) (k : Half) : Instr :=
  match y with
  | 0 => .addAHalf x k
  | 1 => .adcAHalf x k
  | 2 => .subHalf x k
  | 3 => .sbcAHalf x k
  | 4 => .andHalf x k
  | 5 => .xorHalf x k
  | 6 => .orHalf x k
  | _ => .cpHalf x k

/-- `alu(y) (XY+d)`. -/
def aluMxy (y : Nat) (x : XY) (d : Byte) : Instr :=
  match y with
  | 0 => .addAMxy x d
  | 1 => .adcAMxy x d
  | 2 => .subMxy x d
  | 3 => .sbcAMxy x d
  | 4 => .andMxy x d
  | 5 => .xorMxy x d
  | 6 => .orMxy x d
  | _ => .cpMxy x d

/-- `rot(y) r`. -/
def rotR (y : Nat) (r : Reg8) : Instr :=
  match y with
  | 0 => .rlcR r
  | 1 => .rrcR r
  | 2 => .rlR r
  | 3 => .rrR r
  | 4 => .slaR r
  | 5 => .sraR r
  | 6 => .sllR r
  | _ => .srlR r

/-- `rot(y) (HL)`. -/
def rotMhl (y : Nat) : Instr :=
  match y with
  | 0 => .rlcMhl
  | 1 => .rrcMhl
  | 2 => .rlMhl
  | 3 => .rrMhl
  | 4 => .slaMhl
  | 5 => .sraMhl
  | 6 => .sllMhl
  | _ => .srlMhl

/-- `rot(y) (XY+d)`, with the register copy of rule R148. -/
def rotMxy (y : Nat) (x : XY) (d : Byte) (cp : Option Reg8) : Instr :=
  match y with
  | 0 => .rlcMxy x d cp
  | 1 => .rrcMxy x d cp
  | 2 => .rlMxy x d cp
  | 3 => .rrMxy x d cp
  | 4 => .slaMxy x d cp
  | 5 => .sraMxy x d cp
  | 6 => .sllMxy x d cp
  | _ => .srlMxy x d cp

/-! ### The opcode maps (rules R142 to R148) -/

/-- The CB map (rule R146). -/
def decodeCB (op : Byte) : Instr :=
  match opX op, reg8Of (opZ op) with
  | 0, some r => rotR (opY op) r
  | 0, none   => rotMhl (opY op)
  | 1, some r => .bitR (opYFin op) r
  | 1, none   => .bitMhl (opYFin op)
  | 2, some r => .resR (opYFin op) r
  | 2, none   => .resMhl (opYFin op)
  | _, some r => .setR (opYFin op) r
  | _, none   => .setMhl (opYFin op)

/-- `IM` from its y field (rule R147). -/
def decodeIm (op : Byte) : Instr :=
  match opY op with
  | 2 | 6 => .im1 (opYFin op)
  | 3 | 7 => .im2 (opYFin op)
  | _     => .im0 (opYFin op)

/-- The x = 1 rows of the ED map (rule R147). -/
def decodeEDx1 (op : Byte) (nn : Word) : Instr :=
  match opZ op with
  | 0 =>
    match reg8Of (opY op) with
    | some r => .inRC r
    | none   => .inFC
  | 1 =>
    match reg8Of (opY op) with
    | some r => .outCR r
    | none   => .outC0
  | 2 => if opQ op = 0 then .sbcHlRp (rpOf (opP op)) else .adcHlRp (rpOf (opP op))
  | 3 => if opQ op = 0 then .ldMnnRp (rpOf (opP op)) nn else .ldRpMnn (rpOf (opP op)) nn
  | 4 => .neg (opYFin op)
  | 5 => if opY op = 1 then .reti else .retn (opYFin op)
  | 6 => decodeIm op
  | _ =>
    match opY op with
    | 0 => .ldIA
    | 1 => .ldRA
    | 2 => .ldAI
    | 3 => .ldAR
    | 4 => .rrd
    | 5 => .rld
    | _ => .edNop op

/-- The x = 2 rows of the ED map (rule R147): the block cells, and ED NOP outside them. -/
def decodeEDx2 (op : Byte) : Instr :=
  match opZ op, opY op with
  | 0, 4 => .ldi
  | 0, 5 => .ldd
  | 0, 6 => .ldir
  | 0, 7 => .lddr
  | 1, 4 => .cpi
  | 1, 5 => .cpd
  | 1, 6 => .cpir
  | 1, 7 => .cpdr
  | 2, 4 => .ini
  | 2, 5 => .ind
  | 2, 6 => .inir
  | 2, 7 => .indr
  | 3, 4 => .outi
  | 3, 5 => .outd
  | 3, 6 => .otir
  | 3, 7 => .otdr
  | _, _ => .edNop op

/-- The ED map (rule R147). -/
def decodeED (op : Byte) (nn : Word) : Instr :=
  match opX op with
  | 1 => decodeEDx1 op nn
  | 2 => decodeEDx2 op
  | _ => .edNop op

/-- The DDCB/FDCB map (rule R148). -/
def decodeXYCB (x : XY) (d op : Byte) : Instr :=
  match opX op with
  | 0 => rotMxy (opY op) x d (reg8Of (opZ op))
  | 1 => .bitMxy x d (opYFin op) (opZFin op)
  | 2 => .resMxy x d (opYFin op) (reg8Of (opZ op))
  | _ => .setMxy x d (opYFin op) (reg8Of (opZ op))

/-- Whether a register of an opcode that does not name (HL) is substituted by an index half (rule R141). -/
def isHalf : Reg8 → Bool
  | .h | .l => true
  | _       => false

/-- XYh for y or z = 4, XYl for 5. -/
def halfOf (y : Nat) : Half := if y = 4 then .high else .low

/-- The x = 0 cells of the index map (48_index.md rule R451). -/
def decodeIndexX0 (x : XY) (op b2 b3 : Byte) : Option Instr :=
  match opZ op with
  | 1 =>
    if opQ op = 1 then some (.addXyRp x (rpXYOf (opP op)))
    else if opP op = 2 then some (.ldXyNn x (join b3 b2)) else none
  | 2 =>
    if opP op = 2 then
      some (if opQ op = 0 then .ldMnnXy x (join b3 b2) else .ldXyMnn x (join b3 b2))
    else none
  | 3 => if opP op = 2 then some (if opQ op = 0 then .incXy x else .decXy x) else none
  | 4 =>
    match opY op with
    | 4 | 5 => some (.incHalf x (halfOf (opY op)))
    | 6     => some (.incMxy x b2)
    | _     => none
  | 5 =>
    match opY op with
    | 4 | 5 => some (.decHalf x (halfOf (opY op)))
    | 6     => some (.decMxy x b2)
    | _     => none
  | 6 =>
    match opY op with
    | 4 | 5 => some (.ldHalfN x (halfOf (opY op)) b2)
    | 6     => some (.ldMxyN x b2 b3)
    | _     => none
  | _ => none

/-- The x = 1 cells of the index map (rules R451, R465 to R467). -/
def decodeIndexX1 (x : XY) (op b2 : Byte) : Option Instr :=
  match reg8Of (opY op), reg8Of (opZ op) with
  | some r, some r2 => if isHalf r || isHalf r2 then some (.ldRRHalf x r r2) else none
  | some r, none    => some (.ldRMxy x r b2)
  | none,   some r  => some (.ldMxyR x r b2)
  | none,   none    => none

/-- The x = 2 cells of the index map (rule R451). -/
def decodeIndexX2 (x : XY) (op b2 : Byte) : Option Instr :=
  match opZ op with
  | 4 | 5 => some (aluHalf (opY op) x (halfOf (opZ op)))
  | 6     => some (aluMxy (opY op) x b2)
  | _     => none

/-- The x = 3 cells of the index map other than CB (rule R451): E1, E3, E5, E9, F9. -/
def decodeIndexX3 (x : XY) (op : Byte) : Option Instr :=
  match opZ op, opY op with
  | 1, 4 => some (.popXy x)
  | 3, 4 => some (.exMspXy x)
  | 5, 4 => some (.pushXy x)
  | 1, 5 => some (.jpXy x)
  | 1, 7 => some (.ldSpXy x)
  | _, _ => none

/-- The index map without CB (rule R451). -/
def decodeIndex (x : XY) (op b2 b3 : Byte) : Option Instr :=
  match opX op with
  | 0 => decodeIndexX0 x op b2 b3
  | 1 => decodeIndexX1 x op b2
  | 2 => decodeIndexX2 x op b2
  | _ => decodeIndexX3 x op

/-- The instruction after a DD or FD byte (rules R132, R141): DDCB/FDCB, an index instruction, or a lone prefix. -/
def decodeXY (x : XY) (op b2 b3 : Byte) : Instr :=
  if op = 0xCB then decodeXYCB x b2 b3
  else
    match decodeIndex x op b2 b3 with
    | some i => i
    | none   => .lonePrefix x op

/-- The unprefixed map for x = 0 (rule R142). -/
def decodeX0 (op b1 : Byte) (nn : Word) : Instr :=
  match opZ op with
  | 0 =>
    match opY op with
    | 0 => .nop
    | 1 => .exAfAf
    | 2 => .djnz b1
    | 3 => .jr b1
    | y => .jrCc (jrCondOf (y - 4)) b1
  | 1 => if opQ op = 0 then .ldRpNn (rpOf (opP op)) nn else .addHlRp (rpOf (opP op))
  | 2 =>
    match opQ op, opP op with
    | 0, 0 => .ldMbcA
    | 0, 1 => .ldMdeA
    | 0, 2 => .ldMnnHl nn
    | 0, _ => .ldMnnA nn
    | _, 0 => .ldAMbc
    | _, 1 => .ldAMde
    | _, 2 => .ldHlMnn nn
    | _, _ => .ldAMnn nn
  | 3 => if opQ op = 0 then .incRp (rpOf (opP op)) else .decRp (rpOf (opP op))
  | 4 =>
    match reg8Of (opY op) with
    | some r => .incR r
    | none   => .incMhl
  | 5 =>
    match reg8Of (opY op) with
    | some r => .decR r
    | none   => .decMhl
  | 6 =>
    match reg8Of (opY op) with
    | some r => .ldRN r b1
    | none   => .ldMhlN b1
  | _ =>
    match opY op with
    | 0 => .rlca
    | 1 => .rrca
    | 2 => .rla
    | 3 => .rra
    | 4 => .daa
    | 5 => .cpl
    | 6 => .scf
    | _ => .ccf

/-- The unprefixed map for x = 1 (rule R143). -/
def decodeX1 (op : Byte) : Instr :=
  match reg8Of (opY op), reg8Of (opZ op) with
  | some r, some r2 => .ldRR r r2
  | some r, none    => .ldRMhl r
  | none,   some r  => .ldMhlR r
  | none,   none    => .halt

/-- The unprefixed map for x = 2 (rule R144). -/
def decodeX2 (op : Byte) : Instr :=
  match reg8Of (opZ op) with
  | some r => aluR (opY op) r
  | none   => aluMhl (opY op)

/-- The unprefixed map for x = 3 (rule R145), the four prefix bytes included. -/
def decodeX3 (op b1 b2 b3 : Byte) : Instr :=
  match opZ op with
  | 0 => .retCc (condOf (opY op))
  | 1 =>
    match opQ op, opP op with
    | 0, p => .popQq (rp2Of p)
    | _, 0 => .ret
    | _, 1 => .exx
    | _, 2 => .jpHl
    | _, _ => .ldSpHl
  | 2 => .jpCc (condOf (opY op)) (join b2 b1)
  | 3 =>
    match opY op with
    | 0 => .jp (join b2 b1)
    | 1 => decodeCB b1
    | 2 => .outMnA b1
    | 3 => .inAMn b1
    | 4 => .exMspHl
    | 5 => .exDeHl
    | 6 => .di
    | _ => .ei
  | 4 => .callCc (condOf (opY op)) (join b2 b1)
  | 5 =>
    match opQ op, opP op with
    | 0, p => .pushQq (rp2Of p)
    | _, 0 => .call (join b2 b1)
    | _, 1 => decodeXY .ix b1 b2 b3
    | _, 2 => decodeED b1 (join b3 b2)
    | _, _ => decodeXY .iy b1 b2 b3
  | 6 => aluN (opY op) b1
  | _ => .rst (opYFin op)

/-- The instruction whose first byte is `b0`, of the four bytes it can span (rules R130 to R132). Total. -/
def decodeWindow (b0 b1 b2 b3 : Byte) : Instr :=
  match opX b0 with
  | 0 => decodeX0 b0 b1 (join b2 b1)
  | 1 => decodeX1 b0
  | 2 => decodeX2 b0
  | _ => decodeX3 b0 b1 b2 b3

/-! ### The encoder, from the encoding strings of spec/opcode_table.json -/

/-- The 3-bit code of a register (rule R134). -/
def reg8Code : Reg8 → Nat
  | .b => 0
  | .c => 1
  | .d => 2
  | .e => 3
  | .h => 4
  | .l => 5
  | .a => 7

/-- The z field of a DDCB/FDCB form: 6 for no copy (rule R148). -/
def copyCode : Option Reg8 → Nat
  | none   => 6
  | some r => reg8Code r

/-- The 2-bit code of a pair (rule R135). -/
def rpCode : Rp → Nat
  | .bc => 0
  | .de => 1
  | .hl => 2
  | .sp => 3

/-- The 2-bit code of a pair (rule R136). -/
def rp2Code : Rp2 → Nat
  | .bc => 0
  | .de => 1
  | .hl => 2
  | .af => 3

/-- The 2-bit code of a pair of `ADD XY,rr` (rule R456). -/
def rpXYCode : RpXY → Nat
  | .bc => 0
  | .de => 1
  | .xy => 2
  | .sp => 3

/-- The 3-bit code of a condition (rule R137). -/
def condCode : Cond → Nat
  | .nz => 0
  | .z  => 1
  | .nc => 2
  | .c  => 3
  | .po => 4
  | .pe => 5
  | .p  => 6
  | .m  => 7

/-- The 2-bit code of a JR condition (rule R137). -/
def jrCondCode : JrCond → Nat
  | .nz => 0
  | .z  => 1
  | .nc => 2
  | .c  => 3

/-- The prefix byte `11i11101` (rule R130). -/
def xyByte : XY → Byte
  | .ix => 0xDD
  | .iy => 0xFD

/-- The 3-bit code of an index half: 4 for XYh, 5 for XYl (rule R459). -/
def halfCode : Half → Nat
  | .high => 4
  | .low  => 5

/-- The opcode byte with octal fields x, y, z (rule R131). -/
def opByte (x y z : Nat) : Byte := BitVec.ofNat 8 (64 * x + 8 * y + z)

/-- An `rp` opcode of x, p, q, z (rule R131, y = 2p + q). -/
def opByteP (x p q z : Nat) : Byte := opByte x (2 * p + q) z

/-- The bytes of an instruction. For a lone prefix, the byte after it stands behind it: it selects the decoding
and is no part of the instruction (48_index.md rule R519). -/
def encode : Instr → List Byte
  | .ldRR r r2 => [opByte 1 (reg8Code r) (reg8Code r2)]
  | .ldRN r n => [opByte 0 (reg8Code r) 6, n]
  | .ldRMhl r => [opByte 1 (reg8Code r) 6]
  | .ldMhlR r => [opByte 1 6 (reg8Code r)]
  | .ldMhlN n => [0x36, n]
  | .ldAMbc => [0x0A]
  | .ldAMde => [0x1A]
  | .ldAMnn nn => [0x3A, loByte nn, hiByte nn]
  | .ldMbcA => [0x02]
  | .ldMdeA => [0x12]
  | .ldMnnA nn => [0x32, loByte nn, hiByte nn]
  | .ldAI => [0xED, 0x57]
  | .ldAR => [0xED, 0x5F]
  | .ldIA => [0xED, 0x47]
  | .ldRA => [0xED, 0x4F]
  | .ldRpNn rr nn => [opByteP 0 (rpCode rr) 0 1, loByte nn, hiByte nn]
  | .ldHlMnn nn => [0x2A, loByte nn, hiByte nn]
  | .ldMnnHl nn => [0x22, loByte nn, hiByte nn]
  | .ldRpMnn rr nn => [0xED, opByteP 1 (rpCode rr) 1 3, loByte nn, hiByte nn]
  | .ldMnnRp rr nn => [0xED, opByteP 1 (rpCode rr) 0 3, loByte nn, hiByte nn]
  | .ldSpHl => [0xF9]
  | .pushQq qq => [opByteP 3 (rp2Code qq) 0 5]
  | .popQq qq => [opByteP 3 (rp2Code qq) 0 1]
  | .exDeHl => [0xEB]
  | .exMspHl => [0xE3]
  | .exAfAf => [0x08]
  | .exx => [0xD9]
  | .addAR r => [opByte 2 0 (reg8Code r)]
  | .adcAR r => [opByte 2 1 (reg8Code r)]
  | .subR r => [opByte 2 2 (reg8Code r)]
  | .sbcAR r => [opByte 2 3 (reg8Code r)]
  | .andR r => [opByte 2 4 (reg8Code r)]
  | .xorR r => [opByte 2 5 (reg8Code r)]
  | .orR r => [opByte 2 6 (reg8Code r)]
  | .cpR r => [opByte 2 7 (reg8Code r)]
  | .addAN n => [0xC6, n]
  | .adcAN n => [0xCE, n]
  | .subN n => [0xD6, n]
  | .sbcAN n => [0xDE, n]
  | .andN n => [0xE6, n]
  | .xorN n => [0xEE, n]
  | .orN n => [0xF6, n]
  | .cpN n => [0xFE, n]
  | .addAMhl => [0x86]
  | .adcAMhl => [0x8E]
  | .subMhl => [0x96]
  | .sbcAMhl => [0x9E]
  | .andMhl => [0xA6]
  | .xorMhl => [0xAE]
  | .orMhl => [0xB6]
  | .cpMhl => [0xBE]
  | .incR r => [opByte 0 (reg8Code r) 4]
  | .incMhl => [0x34]
  | .decR r => [opByte 0 (reg8Code r) 5]
  | .decMhl => [0x35]
  | .daa => [0x27]
  | .cpl => [0x2F]
  | .neg y => [0xED, opByte 1 y.val 4]
  | .scf => [0x37]
  | .ccf => [0x3F]
  | .addHlRp rr => [opByteP 0 (rpCode rr) 1 1]
  | .adcHlRp rr => [0xED, opByteP 1 (rpCode rr) 1 2]
  | .sbcHlRp rr => [0xED, opByteP 1 (rpCode rr) 0 2]
  | .incRp rr => [opByteP 0 (rpCode rr) 0 3]
  | .decRp rr => [opByteP 0 (rpCode rr) 1 3]
  | .rlca => [0x07]
  | .rrca => [0x0F]
  | .rla => [0x17]
  | .rra => [0x1F]
  | .rlcR r => [0xCB, opByte 0 0 (reg8Code r)]
  | .rrcR r => [0xCB, opByte 0 1 (reg8Code r)]
  | .rlR r => [0xCB, opByte 0 2 (reg8Code r)]
  | .rrR r => [0xCB, opByte 0 3 (reg8Code r)]
  | .slaR r => [0xCB, opByte 0 4 (reg8Code r)]
  | .sraR r => [0xCB, opByte 0 5 (reg8Code r)]
  | .sllR r => [0xCB, opByte 0 6 (reg8Code r)]
  | .srlR r => [0xCB, opByte 0 7 (reg8Code r)]
  | .rlcMhl => [0xCB, 0x06]
  | .rrcMhl => [0xCB, 0x0E]
  | .rlMhl => [0xCB, 0x16]
  | .rrMhl => [0xCB, 0x1E]
  | .slaMhl => [0xCB, 0x26]
  | .sraMhl => [0xCB, 0x2E]
  | .sllMhl => [0xCB, 0x36]
  | .srlMhl => [0xCB, 0x3E]
  | .bitR b r => [0xCB, opByte 1 b.val (reg8Code r)]
  | .bitMhl b => [0xCB, opByte 1 b.val 6]
  | .resR b r => [0xCB, opByte 2 b.val (reg8Code r)]
  | .resMhl b => [0xCB, opByte 2 b.val 6]
  | .setR b r => [0xCB, opByte 3 b.val (reg8Code r)]
  | .setMhl b => [0xCB, opByte 3 b.val 6]
  | .rld => [0xED, 0x6F]
  | .rrd => [0xED, 0x67]
  | .jp nn => [0xC3, loByte nn, hiByte nn]
  | .jpCc cc nn => [opByte 3 (condCode cc) 2, loByte nn, hiByte nn]
  | .jr e => [0x18, e]
  | .jrCc cc e => [opByte 0 (4 + jrCondCode cc) 0, e]
  | .djnz e => [0x10, e]
  | .jpHl => [0xE9]
  | .call nn => [0xCD, loByte nn, hiByte nn]
  | .callCc cc nn => [opByte 3 (condCode cc) 4, loByte nn, hiByte nn]
  | .ret => [0xC9]
  | .retCc cc => [opByte 3 (condCode cc) 0]
  | .retn y => [0xED, opByte 1 y.val 5]
  | .reti => [0xED, 0x4D]
  | .rst y => [opByte 3 y.val 7]
  | .ldi => [0xED, 0xA0]
  | .ldd => [0xED, 0xA8]
  | .ldir => [0xED, 0xB0]
  | .lddr => [0xED, 0xB8]
  | .cpi => [0xED, 0xA1]
  | .cpd => [0xED, 0xA9]
  | .cpir => [0xED, 0xB1]
  | .cpdr => [0xED, 0xB9]
  | .ini => [0xED, 0xA2]
  | .ind => [0xED, 0xAA]
  | .inir => [0xED, 0xB2]
  | .indr => [0xED, 0xBA]
  | .outi => [0xED, 0xA3]
  | .outd => [0xED, 0xAB]
  | .otir => [0xED, 0xB3]
  | .otdr => [0xED, 0xBB]
  | .inAMn n => [0xDB, n]
  | .inRC r => [0xED, opByte 1 (reg8Code r) 0]
  | .inFC => [0xED, 0x70]
  | .outMnA n => [0xD3, n]
  | .outCR r => [0xED, opByte 1 (reg8Code r) 1]
  | .outC0 => [0xED, 0x71]
  | .nop => [0x00]
  | .halt => [0x76]
  | .di => [0xF3]
  | .ei => [0xFB]
  | .im0 y => [0xED, opByte 1 y.val 6]
  | .im1 y => [0xED, opByte 1 y.val 6]
  | .im2 y => [0xED, opByte 1 y.val 6]
  | .edNop o => [0xED, o]
  | .ldXyNn x nn => [xyByte x, 0x21, loByte nn, hiByte nn]
  | .ldXyMnn x nn => [xyByte x, 0x2A, loByte nn, hiByte nn]
  | .ldMnnXy x nn => [xyByte x, 0x22, loByte nn, hiByte nn]
  | .addXyRp x rr => [xyByte x, opByteP 0 (rpXYCode rr) 1 1]
  | .incXy x => [xyByte x, 0x23]
  | .decXy x => [xyByte x, 0x2B]
  | .incHalf x k => [xyByte x, opByte 0 (halfCode k) 4]
  | .decHalf x k => [xyByte x, opByte 0 (halfCode k) 5]
  | .ldHalfN x k n => [xyByte x, opByte 0 (halfCode k) 6, n]
  | .incMxy x d => [xyByte x, 0x34, d]
  | .decMxy x d => [xyByte x, 0x35, d]
  | .ldMxyN x d n => [xyByte x, 0x36, d, n]
  | .ldRRHalf x r r2 => [xyByte x, opByte 1 (reg8Code r) (reg8Code r2)]
  | .ldRMxy x r d => [xyByte x, opByte 1 (reg8Code r) 6, d]
  | .ldMxyR x r d => [xyByte x, opByte 1 6 (reg8Code r), d]
  | .pushXy x => [xyByte x, 0xE5]
  | .popXy x => [xyByte x, 0xE1]
  | .exMspXy x => [xyByte x, 0xE3]
  | .jpXy x => [xyByte x, 0xE9]
  | .ldSpXy x => [xyByte x, 0xF9]
  | .addAHalf x k => [xyByte x, opByte 2 0 (halfCode k)]
  | .adcAHalf x k => [xyByte x, opByte 2 1 (halfCode k)]
  | .subHalf x k => [xyByte x, opByte 2 2 (halfCode k)]
  | .sbcAHalf x k => [xyByte x, opByte 2 3 (halfCode k)]
  | .andHalf x k => [xyByte x, opByte 2 4 (halfCode k)]
  | .xorHalf x k => [xyByte x, opByte 2 5 (halfCode k)]
  | .orHalf x k => [xyByte x, opByte 2 6 (halfCode k)]
  | .cpHalf x k => [xyByte x, opByte 2 7 (halfCode k)]
  | .addAMxy x d => [xyByte x, 0x86, d]
  | .adcAMxy x d => [xyByte x, 0x8E, d]
  | .subMxy x d => [xyByte x, 0x96, d]
  | .sbcAMxy x d => [xyByte x, 0x9E, d]
  | .andMxy x d => [xyByte x, 0xA6, d]
  | .xorMxy x d => [xyByte x, 0xAE, d]
  | .orMxy x d => [xyByte x, 0xB6, d]
  | .cpMxy x d => [xyByte x, 0xBE, d]
  | .rlcMxy x d cp => [xyByte x, 0xCB, d, opByte 0 0 (copyCode cp)]
  | .rrcMxy x d cp => [xyByte x, 0xCB, d, opByte 0 1 (copyCode cp)]
  | .rlMxy x d cp => [xyByte x, 0xCB, d, opByte 0 2 (copyCode cp)]
  | .rrMxy x d cp => [xyByte x, 0xCB, d, opByte 0 3 (copyCode cp)]
  | .slaMxy x d cp => [xyByte x, 0xCB, d, opByte 0 4 (copyCode cp)]
  | .sraMxy x d cp => [xyByte x, 0xCB, d, opByte 0 5 (copyCode cp)]
  | .sllMxy x d cp => [xyByte x, 0xCB, d, opByte 0 6 (copyCode cp)]
  | .srlMxy x d cp => [xyByte x, 0xCB, d, opByte 0 7 (copyCode cp)]
  | .bitMxy x d b z => [xyByte x, 0xCB, d, opByte 1 b.val z.val]
  | .resMxy x d b cp => [xyByte x, 0xCB, d, opByte 2 b.val (copyCode cp)]
  | .setMxy x d b cp => [xyByte x, 0xCB, d, opByte 3 b.val (copyCode cp)]
  | .lonePrefix x q => [xyByte x, q]

/-- How many bytes of the program an instruction takes: all that `encode` writes, but one for a lone prefix
(rules R130, R519). -/
def Instr.byteLength (i : Instr) : Nat :=
  match i with
  | .lonePrefix _ _ => 1
  | i               => (encode i).length

/-! ### Decoding a list of bytes -/

/-- Why a list of bytes does not decode. -/
inductive DecodeError
  /-- The list ends before its instruction does (or, after DD or FD, before the byte that decides). -/
  | truncated
  deriving DecidableEq, Repr

/-- The instruction at the head of a list of bytes and the bytes behind it. Rejects, by name, only a list that is
too short: no byte sequence is illegal (rule R151). -/
def decode (bs : List Byte) : Except DecodeError (Instr × List Byte) :=
  let i := decodeWindow (bs.getD 0 0) (bs.getD 1 0) (bs.getD 2 0) (bs.getD 3 0)
  if bs.length < (encode i).length then .error .truncated
  else .ok (i, bs.drop i.byteLength)

/-! ### Words of spec/opcode_table.json -/

/-- Byte k of a number, byte 0 the least significant. -/
def byteOfNat (w k : Nat) : Byte := BitVec.ofNat 8 (w / 256 ^ k)

/-- Whether a byte is CB, DD, ED or FD (rule R132). -/
def isLeadByte (b : Byte) : Bool := b == 0xCB || b == 0xDD || b == 0xED || b == 0xFD

/-- Whether a word of the opcode table is numbered with its first byte in the top position. The table reads a
row's match and mask as one number whose first byte is the most significant (98_reader.md), and every row of more
than one byte begins with CB, DD, ED or FD; CB begins rows of two bytes only. -/
def tableFirstByteOnTop (nbits w : Nat) : Bool :=
  let top := byteOfNat w (nbits / 8 - 1)
  16 ≤ nbits && isLeadByte top && (top != 0xCB || nbits == 16)

/-- Byte k of the instruction that a table word of `nbits` bits stands for, bytes beyond the word 0
(DESIGN CHOICE, log entry 9). -/
def tableByte (nbits w k : Nat) : Byte :=
  if tableFirstByteOnTop nbits w then
    if k < nbits / 8 then byteOfNat w (nbits / 8 - 1 - k) else 0
  else byteOfNat w k

/-- The instruction the decoder reads from a word of spec/opcode_table.json, operand bytes beyond it 0. -/
def decodeTableWord (nbits w : Nat) : Option Instr :=
  some (decodeWindow (tableByte nbits w 0) (tableByte nbits w 1) (tableByte nbits w 2) (tableByte nbits w 3))

end Sys2Proof
end

