-- ==== Sys2Proof/Machine/Flags.lean ====
section
/-! DEFINITION. The flags byte and every flag computation of the spec.

F holds, from bit 7 to bit 0, S Z Y H X PV N C (10_state.md rule R45). Arithmetic is done on integers and then
reduced (00_scope.md rule R10). A function that returns a pair returns (result, F′). -/

namespace Sys2Proof.Machine

/-! ### The bits of F (rule R45) -/

/-- F.C. -/
def flagC (f : Byte) : Bool := f.getLsbD 0
/-- F.N. -/
def flagN (f : Byte) : Bool := f.getLsbD 1
/-- F.PV. -/
def flagPV (f : Byte) : Bool := f.getLsbD 2
/-- F.X. -/
def flagX (f : Byte) : Bool := f.getLsbD 3
/-- F.H. -/
def flagH (f : Byte) : Bool := f.getLsbD 4
/-- F.Y. -/
def flagY (f : Byte) : Bool := f.getLsbD 5
/-- F.Z. -/
def flagZ (f : Byte) : Bool := f.getLsbD 6
/-- F.S. -/
def flagS (f : Byte) : Bool := f.getLsbD 7

/-- `m` when the condition holds, else 0: the `(c ? m : 0)` of the rules. -/
def maskIf (b : Bool) (m : Byte) : Byte := if b then m else 0

/-- The truth of a condition (30_encoding.md rule R137). -/
def condHolds (cc : Cond) (f : Byte) : Bool :=
  match cc with
  | .nz => !flagZ f
  | .z  => flagZ f
  | .nc => !flagC f
  | .c  => flagC f
  | .po => !flagPV f
  | .pe => flagPV f
  | .p  => !flagS f
  | .m  => flagS f

/-- The truth of a JR condition (rule R137). -/
def jrCondHolds (cc : JrCond) (f : Byte) : Bool :=
  match cc with
  | .nz => !flagZ f
  | .z  => flagZ f
  | .nc => !flagC f
  | .c  => flagC f

/-! ### Helpers (00_scope.md rule R15) -/

/-- `sz53(v)`. -/
def sz53 (v : Byte) : Byte := (v &&& 0xA8) ||| maskIf (v == 0) 0x40

/-- `parity(v)`: v has an even number of 1 bits. -/
def parity (v : Byte) : Bool :=
  !(v.getLsbD 0 ^^ v.getLsbD 1 ^^ v.getLsbD 2 ^^ v.getLsbD 3 ^^ v.getLsbD 4 ^^ v.getLsbD 5 ^^ v.getLsbD 6
    ^^ v.getLsbD 7)

/-- `sz53p(v)`. -/
def sz53p (v : Byte) : Byte := sz53 v ||| maskIf (parity v) 0x04

/-- The low nibble. -/
def nibble (v : Byte) : Nat := v.toNat % 16

/-! ### 8-bit arithmetic and logic (42_alu8.md rules R240 to R247) -/

/-- `add8(a, b, c)` (rule R240). -/
def add8 (a b : Byte) (c : Bool) : Byte × Byte :=
  let s := a.toNat + b.toNat + c.toNat
  let res := BitVec.ofNat 8 s
  let h := decide (nibble a + nibble b + c.toNat > 0xF)
  let pv := a.getLsbD 7 == b.getLsbD 7 && res.getLsbD 7 != a.getLsbD 7
  (res, sz53 res ||| maskIf h 0x10 ||| maskIf pv 0x04 ||| maskIf (decide (s > 0xFF)) 0x01)

/-- `sub8(a, b, c)` (rule R241). -/
def sub8 (a b : Byte) (c : Bool) : Byte × Byte :=
  let s : Int := (a.toNat : Int) - b.toNat - c.toNat
  let res := BitVec.ofInt 8 s
  let h := decide ((nibble a : Int) - nibble b - c.toNat < 0)
  let pv := a.getLsbD 7 != b.getLsbD 7 && res.getLsbD 7 != a.getLsbD 7
  (res, sz53 res ||| maskIf h 0x10 ||| maskIf pv 0x04 ||| 0x02 ||| maskIf (decide (s < 0)) 0x01)

/-- `and8(a, b)` (rule R242). -/
def and8 (a b : Byte) : Byte × Byte := (a &&& b, sz53p (a &&& b) ||| 0x10)

/-- `xor8(a, b)` (rule R243). -/
def xor8 (a b : Byte) : Byte × Byte := (a ^^^ b, sz53p (a ^^^ b))

/-- `or8(a, b)` (rule R244). -/
def or8 (a b : Byte) : Byte × Byte := (a ||| b, sz53p (a ||| b))

/-- `cp8(a, b)` (rule R245): F′ alone, the result is discarded. -/
def cp8 (a b : Byte) : Byte := ((sub8 a b false).2 &&& 0xD7) ||| (b &&& 0x28)

/-- `inc8(v)` (rule R246); C kept from f. -/
def inc8 (v f : Byte) : Byte × Byte :=
  let res := v + 1
  (res, sz53 res ||| maskIf (nibble v == 0xF) 0x10 ||| maskIf (res == 0x80) 0x04 ||| (f &&& 0x01))

/-- `dec8(v)` (rule R247); C kept from f. -/
def dec8 (v f : Byte) : Byte × Byte :=
  let res := v - 1
  (res, sz53 res ||| maskIf (nibble v == 0) 0x10 ||| maskIf (res == 0x7F) 0x04 ||| 0x02 ||| (f &&& 0x01))

/-! ### Accumulator adjust, complement, carry flag (rules R290, R291, R297 to R299) -/

/-- DAA (rule R290). -/
def daa8 (a f : Byte) : Byte × Byte :=
  let lo := nibble a
  let diff : Byte := maskIf (flagH f || decide (lo > 9)) 0x06 ||| maskIf (flagC f || decide (a.toNat > 0x99)) 0x60
  let c := flagC f || decide (a.toNat > 0x99)
  let res := if flagN f then a - diff else a + diff
  let h := if flagN f then flagH f && decide (lo < 6) else decide (lo > 9)
  (res, sz53p res ||| maskIf h 0x10 ||| maskIf (flagN f) 0x02 ||| maskIf c 0x01)

/-- CPL (rule R291): S, Z, PV, C kept; H = N = 1; Y, X from the new A. -/
def cpl8 (a f : Byte) : Byte × Byte :=
  let res := a ^^^ 0xFF
  (res, (f &&& 0xC5) ||| 0x12 ||| (res &&& 0x28))

/-- `xyQ(A, F, Q)` under a value of `SCF_CCF_XY` (rule R297). -/
def xyQ (rule : XyRule) (a f q : Byte) : Byte :=
  match rule with
  | .qRule => ((q ^^^ f) ||| a) &&& 0x28
  | .fromA => a &&& 0x28

/-- SCF's F (rule R298). -/
def scfFlags (rule : XyRule) (a f q : Byte) : Byte := (f &&& 0xC4) ||| xyQ rule a f q ||| 0x01

/-- CCF's F (rule R299). -/
def ccfFlags (rule : XyRule) (a f q : Byte) : Byte :=
  (f &&& 0xC4) ||| xyQ rule a f q ||| maskIf (flagC f) 0x10 ||| maskIf (!flagC f) 0x01

/-! ### 16-bit arithmetic (43_alu16.md rules R300 to R302) -/

/-- Bits 13 and 11 of a 16-bit result, as Y and X. -/
def xy16 (res : Word) : Byte := hiByte res &&& 0x28

/-- `ADD HL,rr` (rule R300): S, Z, PV kept from f. -/
def add16 (a b : Word) (f : Byte) : Word × Byte :=
  let s := a.toNat + b.toNat
  let h := decide (a.toNat % 0x1000 + b.toNat % 0x1000 > 0xFFF)
  (BitVec.ofNat 16 s,
    (f &&& 0xC4) ||| xy16 (BitVec.ofNat 16 s) ||| maskIf h 0x10 ||| maskIf (decide (s > 0xFFFF)) 0x01)

/-- `ADC HL,rr` (rule R301). -/
def adc16 (a b : Word) (c : Bool) : Word × Byte :=
  let s := a.toNat + b.toNat + c.toNat
  let res := BitVec.ofNat 16 s
  let h := decide (a.toNat % 0x1000 + b.toNat % 0x1000 + c.toNat > 0xFFF)
  let pv := a.getLsbD 15 == b.getLsbD 15 && res.getLsbD 15 != a.getLsbD 15
  (res, maskIf (res.getLsbD 15) 0x80 ||| maskIf (res == 0) 0x40 ||| xy16 res ||| maskIf h 0x10 ||| maskIf pv 0x04
    ||| maskIf (decide (s > 0xFFFF)) 0x01)

/-- `SBC HL,rr` (rule R302). -/
def sbc16 (a b : Word) (c : Bool) : Word × Byte :=
  let s : Int := (a.toNat : Int) - b.toNat - c.toNat
  let res := BitVec.ofInt 16 s
  let h := decide (((a.toNat % 0x1000 : Nat) : Int) - ((b.toNat % 0x1000 : Nat) : Int) - c.toNat < 0)
  let pv := a.getLsbD 15 != b.getLsbD 15 && res.getLsbD 15 != a.getLsbD 15
  (res, maskIf (res.getLsbD 15) 0x80 ||| maskIf (res == 0) 0x40 ||| xy16 res ||| maskIf h 0x10 ||| maskIf pv 0x04
    ||| 0x02 ||| maskIf (decide (s < 0)) 0x01)

/-! ### Rotates and shifts (44_rotate_bit.md rules R320 to R332): (result, bit shifted out) -/

/-- RLC: `c <- v[7]; res <- lo8(v << 1) | c`. -/
def rotRlc (v : Byte) : Byte × Bool := ((v <<< 1) ||| maskIf (v.getLsbD 7) 0x01, v.getLsbD 7)
/-- RRC: `c <- v[0]; res <- (v >> 1) | (c << 7)`. -/
def rotRrc (v : Byte) : Byte × Bool := ((v >>> 1) ||| maskIf (v.getLsbD 0) 0x80, v.getLsbD 0)
/-- RL, a 9-bit rotate through the carry. -/
def rotRl (c : Bool) (v : Byte) : Byte × Bool := ((v <<< 1) ||| maskIf c 0x01, v.getLsbD 7)
/-- RR, a 9-bit rotate through the carry. -/
def rotRr (c : Bool) (v : Byte) : Byte × Bool := ((v >>> 1) ||| maskIf c 0x80, v.getLsbD 0)
/-- SLA. -/
def rotSla (v : Byte) : Byte × Bool := (v <<< 1, v.getLsbD 7)
/-- SRA: bit 7 is kept. -/
def rotSra (v : Byte) : Byte × Bool := ((v >>> 1) ||| (v &&& 0x80), v.getLsbD 0)
/-- SLL: bit 0 becomes 1. -/
def rotSll (v : Byte) : Byte × Bool := ((v <<< 1) ||| 0x01, v.getLsbD 7)
/-- SRL. -/
def rotSrl (v : Byte) : Byte × Bool := (v >>> 1, v.getLsbD 0)

/-- F of a CB rotate: `sz53p(res) | (c ? C : 0)` (rule R324). -/
def rotFlags (rc : Byte × Bool) : Byte := sz53p rc.1 ||| maskIf rc.2 0x01

/-- F of an accumulator rotate: S, Z, PV kept, H = N = 0, C = c, Y and X from the new A (rule R320). -/
def rotAFlags (rc : Byte × Bool) (f : Byte) : Byte := (f &&& 0xC4) ||| (rc.1 &&& 0x28) ||| maskIf rc.2 0x01

/-! ### BIT, RES, SET, RLD, RRD (rules R341 to R351) -/

/-- `1 << b`. -/
def bitMask (b : Fin 8) : Byte := 1#8 <<< b.val

/-- F of BIT (rules R341, R345): bit b of v tested, Y and X copied from `src`. -/
def bitFlags (b : Fin 8) (v src f : Byte) : Byte :=
  let t0 := v.getLsbD b.val
  (f &&& 0x01) ||| 0x10 ||| (src &&& 0x28) ||| maskIf (!t0) 0x44 ||| maskIf (b.val == 7 && t0) 0x80

/-- `v & ~(1 << b)` (rule R346). -/
def resBit (b : Fin 8) (v : Byte) : Byte := v &&& ~~~(bitMask b)

/-- `v | (1 << b)` (rule R348). -/
def setBit (b : Fin 8) (v : Byte) : Byte := v ||| bitMask b

/-- RLD (rule R350): (new memory byte, new A). -/
def rldBytes (a v : Byte) : Byte × Byte := ((v <<< 4) ||| (a &&& 0x0F), (a &&& 0xF0) ||| (v >>> 4))

/-- RRD (rule R351): (new memory byte, new A). -/
def rrdBytes (a v : Byte) : Byte × Byte := ((a <<< 4) ||| (v >>> 4), (a &&& 0xF0) ||| (v &&& 0x0F))

/-- F of an instruction that sets S, Z, Y, X, PV from a value by `sz53p`, H = N = 0, C kept (rules R350, R421). -/
def szpKeepC (v f : Byte) : Byte := sz53p v ||| (f &&& 0x01)

/-- F of `LD A,I` and `LD A,R`: `sz53(v)`, H = N = 0, PV = IFF2, C kept (40_load8.md rules R211, R212). -/
def ldAIRFlags (v : Byte) (iff2 : Bool) (f : Byte) : Byte := sz53 v ||| maskIf iff2 0x04 ||| (f &&& 0x01)

/-! ### Block instructions (46_block.md) -/

/-- F of LDI and LDD (rule R392): v transferred, bc1 the count after the decrement; S, Z, C kept. -/
def ldBlockFlags (a v : Byte) (bc1 : Word) (f : Byte) : Byte :=
  let n := v + a
  (f &&& 0xC1) ||| maskIf (n.getLsbD 1) 0x20 ||| maskIf (n.getLsbD 3) 0x08 ||| maskIf (bc1 != 0) 0x04

/-- F of CPI and CPD (rule R396): v compared, bc1 the count after the decrement; C kept. -/
def cpBlockFlags (a v : Byte) (bc1 : Word) (f : Byte) : Byte :=
  let r := a - v
  let h := decide (nibble a < nibble v)
  let n := r - maskIf h 0x01
  (r &&& 0x80) ||| maskIf (r == 0) 0x40 ||| maskIf (n.getLsbD 1) 0x20 ||| maskIf h 0x10
    ||| maskIf (n.getLsbD 3) 0x08 ||| maskIf (bc1 != 0) 0x04 ||| 0x02 ||| (f &&& 0x01)

/-- `bioFlags(v, k, B1)` (rule R400). -/
def bioFlags (v : Byte) (k : Nat) (b1 : Byte) : Byte :=
  sz53 b1 ||| maskIf (decide (k > 255)) 0x11 ||| maskIf (v.getLsbD 7) 0x02
    ||| maskIf (parity (BitVec.ofNat 8 (k % 8) ^^^ b1)) 0x04

end Sys2Proof.Machine
end

