-- ==== Sys2Proof/Machine/State.lean ====
section
/-! DEFINITION. The machine's state (10_state.md), its fault and refusal reasons, and the state after reset.

Everything is plain data. The registers stand in `Cpu`; each has one home, and pairs and index halves are computed
(Machine/Operands.lean). -/

namespace Sys2Proof.Machine

/-- The fault reasons (60_exceptions.md rule R520: "The fault model has one fault reason"). -/
inductive Fault
  /-- A primitive had to read the contention table at `t ≥ CONTENTION_TABLE_LEN` (20_memory.md rule R87). Raised by
  `consultTable`, so by any instruction, interrupt or NMI acknowledge that makes a table-driven access that late.
  Safe: the source's release reading goes on with delay zero (92_eei_decisions.md D12), this model stops. -/
  | contentionOverrun
  deriving DecidableEq, Repr

/-- The refusal reasons. Every byte sequence decodes to a defined instruction (60_exceptions.md rule R521), and every
instruction has its meaning, so no meaning refuses. -/
inductive Refusal
  /-- An arm of exec with no meaning yet would raise it, by the mnemonic of the opcode table. Safe: it stops.
  No arm raises it. -/
  | notModelled (mnemonic : String)
  deriving DecidableEq, Repr

/-- The interrupt mode, "IM ∈ {0,1,2}" (10_state.md rule R52). -/
inductive IntMode
  | im0 | im1 | im2
  deriving DecidableEq, Repr

/-- The registers of the block (10_state.md rules R40 to R54 and the summary R62). A name ending in `Alt` is the
shadow register (rule R41): `aAlt` is A′. -/
structure Cpu where
  a : Byte
  f : Byte
  b : Byte
  c : Byte
  d : Byte
  e : Byte
  h : Byte
  l : Byte
  aAlt : Byte
  fAlt : Byte
  bAlt : Byte
  cAlt : Byte
  dAlt : Byte
  eAlt : Byte
  hAlt : Byte
  lAlt : Byte
  ix : Word
  iy : Word
  sp : Word
  pc : Word
  i : Byte
  r : Byte
  memptr : Word
  q : Byte
  iff1 : Bool
  iff2 : Bool
  im : IntMode
  halt : Bool
  eiShadow : Bool
  deriving DecidableEq, Repr

/-- Memory: (address, byte) pairs, addresses strictly rising, no pair holding what an unlisted address reads as
(`Memory.wf`, Machine/Ops.lean). -/
abbrev Memory := List Host.Cell

/-- The complete state of the block (10_state.md rule R62).

`roFlips` holds the read-only map `ro` (rule R56): the addresses whose bit differs from the map at creation, in
strictly rising order, so that equal maps are equal data. -/
structure State where
  cpu     : Cpu
  mem     : Memory
  roFlips : List Nat
  t       : Nat
  fault   : Option Fault
  trace   : List BusEvent
  deriving DecidableEq, Repr

/-- Every register 0, IFF1 = IFF2 = 0, IM = 0, HALT = 0, EI_SHADOW = 0 (70_reset_and_hazards.md rule R551). -/
def Cpu.zero : Cpu :=
  { a := 0, f := 0, b := 0, c := 0, d := 0, e := 0, h := 0, l := 0
    aAlt := 0, fAlt := 0, bAlt := 0, cAlt := 0, dAlt := 0, eAlt := 0, hAlt := 0, lAlt := 0
    ix := 0, iy := 0, sp := 0, pc := 0, i := 0, r := 0, memptr := 0, q := 0
    iff1 := false, iff2 := false, im := .im0, halt := false, eiShadow := false }

/-- The machine right after the hard reset of rule R551 that follows its creation (rule R550): no fault, an empty
trace, `ro` as at creation. DESIGN CHOICE, unsafe: t = 0, which the spec leaves to the host (log entry 2). -/
def State.reset : State :=
  { cpu := .zero, mem := [], roFlips := [], t := 0, fault := none, trace := [] }

end Sys2Proof.Machine
end

