-- ==== Sys2Proof/Machine/Operands.lean ====
section
/-! DEFINITION. Reading and writing the registers by operand (10_state.md rules R40 to R45, R61; 30_encoding.md
rules R134 to R140). Each register half is stored once; a pair is computed from its halves, an index half from its
pair. No register is hardwired (rule R40). -/

namespace Sys2Proof.Machine

/-! ### Pairs (rule R11) -/

/-- AF. -/
def Cpu.af (c : Cpu) : Word := join c.a c.f
/-- BC. -/
def Cpu.bc (c : Cpu) : Word := join c.b c.c
/-- DE. -/
def Cpu.de (c : Cpu) : Word := join c.d c.e
/-- HL. -/
def Cpu.hl (c : Cpu) : Word := join c.h c.l
/-- `IR`, the address of internal cycles, `I:R` (rule R13). -/
def Cpu.ir (c : Cpu) : Word := join c.i c.r

/-- Writes both halves of AF. -/
def Cpu.setAf (w : Word) (c : Cpu) : Cpu := { c with a := hiByte w, f := loByte w }
/-- Writes both halves of BC. -/
def Cpu.setBc (w : Word) (c : Cpu) : Cpu := { c with b := hiByte w, c := loByte w }
/-- Writes both halves of DE. -/
def Cpu.setDe (w : Word) (c : Cpu) : Cpu := { c with d := hiByte w, e := loByte w }
/-- Writes both halves of HL. -/
def Cpu.setHl (w : Word) (c : Cpu) : Cpu := { c with h := hiByte w, l := loByte w }

/-! ### 8-bit registers (rule R134) -/

/-- Reads a register of `reg8`. -/
def Cpu.getR (r : Reg8) (c : Cpu) : Byte :=
  match r with
  | .b => c.b
  | .c => c.c
  | .d => c.d
  | .e => c.e
  | .h => c.h
  | .l => c.l
  | .a => c.a

/-- Writes a register of `reg8`. -/
def Cpu.setR (r : Reg8) (v : Byte) (c : Cpu) : Cpu :=
  match r with
  | .b => { c with b := v }
  | .c => { c with c := v }
  | .d => { c with d := v }
  | .e => { c with e := v }
  | .h => { c with h := v }
  | .l => { c with l := v }
  | .a => { c with a := v }

/-- The register copy of a DDCB/FDCB form: none for z = 6 (rule R148). -/
def Cpu.setCopy (cp : Option Reg8) (v : Byte) (c : Cpu) : Cpu :=
  match cp with
  | none   => c
  | some r => c.setR r v

/-! ### Pair operands (rules R135, R136) -/

/-- Reads a pair of `rp`. -/
def Cpu.getRp (rr : Rp) (c : Cpu) : Word :=
  match rr with
  | .bc => c.bc
  | .de => c.de
  | .hl => c.hl
  | .sp => c.sp

/-- Writes a pair of `rp`. -/
def Cpu.setRp (rr : Rp) (w : Word) (c : Cpu) : Cpu :=
  match rr with
  | .bc => c.setBc w
  | .de => c.setDe w
  | .hl => c.setHl w
  | .sp => { c with sp := w }

/-- Reads a pair of `rp2`. -/
def Cpu.getRp2 (qq : Rp2) (c : Cpu) : Word :=
  match qq with
  | .bc => c.bc
  | .de => c.de
  | .hl => c.hl
  | .af => c.af

/-- Writes a pair of `rp2`. -/
def Cpu.setRp2 (qq : Rp2) (w : Word) (c : Cpu) : Cpu :=
  match qq with
  | .bc => c.setBc w
  | .de => c.setDe w
  | .hl => c.setHl w
  | .af => c.setAf w

/-! ### Index registers (rules R42, R141; 48_index.md) -/

/-- Reads XY. -/
def Cpu.getXy (x : XY) (c : Cpu) : Word :=
  match x with
  | .ix => c.ix
  | .iy => c.iy

/-- Writes XY. -/
def Cpu.setXy (x : XY) (w : Word) (c : Cpu) : Cpu :=
  match x with
  | .ix => { c with ix := w }
  | .iy => { c with iy := w }

/-- Reads XYh or XYl. -/
def Cpu.getHalf (x : XY) (k : Half) (c : Cpu) : Byte :=
  match k with
  | .high => hiByte (c.getXy x)
  | .low  => loByte (c.getXy x)

/-- Writes XYh or XYl and leaves the other half unchanged (rule R11). -/
def Cpu.setHalf (x : XY) (k : Half) (v : Byte) (c : Cpu) : Cpu :=
  match k with
  | .high => c.setXy x (join v (loByte (c.getXy x)))
  | .low  => c.setXy x (join (hiByte (c.getXy x)) v)

/-- Reads `reg8′`: H and L stand for XYh and XYl (rule R465). -/
def Cpu.getRx (x : XY) (r : Reg8) (c : Cpu) : Byte :=
  match r with
  | .h => c.getHalf x .high
  | .l => c.getHalf x .low
  | r  => c.getR r

/-- Writes `reg8′` (rule R465). -/
def Cpu.setRx (x : XY) (r : Reg8) (v : Byte) (c : Cpu) : Cpu :=
  match r with
  | .h => c.setHalf x .high v
  | .l => c.setHalf x .low v
  | r  => c.setR r v

/-- Reads a pair of `ADD XY,rr` (rule R456). -/
def Cpu.getRpXY (x : XY) (rr : RpXY) (c : Cpu) : Word :=
  match rr with
  | .bc => c.bc
  | .de => c.de
  | .xy => c.getXy x
  | .sp => c.sp

/-- `ea = lo16(XY + sext_8(d))` (rule R140). -/
def Cpu.indexAddr (x : XY) (d : Byte) (c : Cpu) : Word := c.getXy x + sext8 d

/-! ### The refresh register -/

/-- `R <- R[7] : lo7(R[6:0] + 1)` (rule R48). -/
def bumpRefresh (r : Byte) : Byte := (r &&& 0x80) ||| ((r + 1) &&& 0x7F)

end Sys2Proof.Machine
end

