-- ==== Sys2Proof/Machine/Ops.lean ====
section
/-! DEFINITION. The operations every meaning is made of: memory, the contention table, the bus primitives of
20_memory.md rules R88 to R97, the stack, the end of a step, taking an interrupt and returning from one, and reset.

A primitive that must read the contention table too late sets `fault`; it is never cleared, so the step it happens in
ends in that fault (`outcome`), whatever the primitives after it compute (60_exceptions.md rule R520). -/

namespace Sys2Proof.Machine

/-- What a step answers. -/
abbrev Result := Host.Outcome State Fault Refusal

/-! ### Memory (20_memory.md rules R80, R81, R98) -/

/-- What an address that memory does not list reads as. DESIGN CHOICE, unsafe: the spec leaves every byte free at
creation (rule R99); the model fixes 0, what `clear()` leaves in RAM (log entry 1). -/
def Memory.unlisted : Byte := 0

/-- The byte at an address. -/
def Memory.read : Memory → Nat → Byte
  | [], _ => Memory.unlisted
  | (k, v) :: rest, a => if k = a then v else Memory.read rest a

/-- A list head, left out where it says what an unlisted address reads as. -/
def Memory.cons (a : Nat) (v : Byte) (rest : Memory) : Memory :=
  if v = Memory.unlisted then rest else (a, v) :: rest

/-- Memory with a byte written; the canonical form `Memory.wf` is kept. -/
def Memory.write : Memory → Nat → Byte → Memory
  | [], a, v => Memory.cons a v []
  | (k, w) :: rest, a, v =>
    if a < k then Memory.cons a v ((k, w) :: rest)
    else if a = k then Memory.cons a v rest
    else (k, w) :: Memory.write rest a v

/-- The canonical form: addresses strictly rising and below 65536, no entry equal to what an unlisted address reads
as. -/
abbrev Memory.wf (m : Memory) : Prop :=
  m.Pairwise (fun x y => x.1 < y.1) ∧ ∀ x ∈ m, x.1 < 65536 ∧ x.2 ≠ Memory.unlisted

/-- `mem[a]`. -/
def State.byteAt (s : State) (a : Word) : Byte := s.mem.read a.toNat

/-- The 16-bit value at a: low byte at a, high byte at a + 1 modulo 65536 (rule R84). -/
def State.wordAt (s : State) (a : Word) : Word := join (s.byteAt (a + 1)) (s.byteAt a)

/-- Whether an address is read-only when the machine is created: 0x0000-0x3FFF (10_state.md rule R56). -/
def readOnlyAtCreation (a : Word) : Bool := a.toNat < 0x4000

/-- `ro[a]` of a stored map: the creation map, but for the addresses listed (log entry 8). -/
def isReadOnlyIn (flips : List Nat) (a : Word) : Bool := readOnlyAtCreation a != flips.contains a.toNat

/-- `ro[a]`. -/
def State.isReadOnly (s : State) (a : Word) : Bool := isReadOnlyIn s.roFlips a

/-- An address put into a strictly rising list. -/
def insertAddr (a : Nat) : List Nat → List Nat
  | [] => [a]
  | k :: rest => if a < k then a :: k :: rest else if a = k then k :: rest else k :: insertAddr a rest

/-- The canonical form of `roFlips`: strictly rising addresses below 65536. -/
abbrev roFlipsWf (flips : List Nat) : Prop := flips.Pairwise (· < ·) ∧ ∀ a ∈ flips, a < 65536

/-- `ro[a] <- b` by the host (92_eei_decisions.md D19). -/
def setReadOnlyIn (flips : List Nat) (a : Word) (b : Bool) : List Nat :=
  if b = readOnlyAtCreation a then flips.filter (· != a.toNat) else insertAddr a.toNat flips

/-- `load(addr, bytes)` (rule R98): past `ro`, clamped to the 64 KiB bound. -/
def loadBytes (addr : Nat) : List Byte → State → State
  | [], s => s
  | v :: rest, s =>
    loadBytes (addr + 1) rest (if addr ≤ 0xFFFF then { s with mem := s.mem.write addr v } else s)

/-- Bytes put at a, a + 1, … modulo 65536, past `ro`: the place the fetch reads them from. -/
def placeBytes (a : Word) : List Byte → State → State
  | [], s => s
  | v :: rest, s => placeBytes (a + 1) rest { s with mem := s.mem.write a.toNat v }

/-- `clear()` (rule R98): every byte with `ro = 0` becomes 0. An entry that stays is one of a read-only address. -/
def clearRam (s : State) : State :=
  { s with mem := s.mem.filter fun cell => s.isReadOnly (BitVec.ofNat 16 cell.1) }

/-- The instruction at PC: the decoding of the four bytes that stand there, addresses modulo 65536 (R44, R80). -/
def fetchInstr (s : State) : Instr :=
  decodeWindow (s.byteAt s.cpu.pc) (s.byteAt (s.cpu.pc + 1)) (s.byteAt (s.cpu.pc + 2)) (s.byteAt (s.cpu.pc + 3))

/-- Applies a change of the registers. -/
def State.upd (f : Cpu → Cpu) (s : State) : State := { s with cpu := f s.cpu }

/-! ### The contention table (rules R82, R86, R87) -/

/-- `isContended(a)`: 0x4000-0x7FFF (rule R82). -/
def isContended (a : Word) : Bool := 0x4000 ≤ a.toNat && a.toNat ≤ 0x7FFF

/-- `table(t)` (rule R86). -/
def contentionDelay (t : Nat) : Nat :=
  if 14335 ≤ t ∧ t < 14335 + 192 * 224 then
    let k := (t - 14335) % 224
    if k < 128 then [6, 5, 4, 3, 2, 1, 0, 0].getD (k % 8) 0 else 0
  else 0

/-- One cycle that reads the table: `t <- t + table(t) + n`, or the overrun fault (rules R87, R88, R97). -/
def consultTable (n : Nat) (s : State) : State :=
  if s.t < Config.contentionTableLen then { s with t := s.t + contentionDelay s.t + n }
  else { s with fault := some .contentionOverrun }

/-- `T(n)`: n t-states with no contention (rule R93). -/
def passTime (n : Nat) (s : State) : State := { s with t := s.t + n }

/-- One iteration of `contend` (rule R88). -/
def contendOnce (a : Word) (delay : Nat) (s : State) : State :=
  if isContended a then consultTable delay s else passTime delay s

/-- `contend(a, delay, n)` (rule R88). -/
def contend (a : Word) (delay : Nat) : Nat → State → State
  | 0, s => s
  | n + 1, s => contend a delay n (contendOnce a delay s)

/-! ### Bus primitives (rules R89 to R97) -/

/-- Appends an event to the trace, at the present t (rule R107). -/
def logEvent (k : BusKind) (a : Word) (v : Byte) (s : State) : State :=
  { s with trace := s.trace ++ [⟨s.t, k, a, v⟩] }

/-- `MR(a)` (rule R89). The byte read is `s.byteAt a`, which a read does not change. -/
def mr (a : Word) (s : State) : State := logEvent .mr a (s.byteAt a) (contend a 3 1 s)

/-- `MW(a, v)` (rule R90): the byte is written only where `ro[a] = 0` (rule R81). -/
def mw (a : Word) (v : Byte) (s : State) : State :=
  let s := contend a 3 1 s
  logEvent .mw a v (if s.isReadOnly a then s else { s with mem := s.mem.write a.toNat v })

/-- `M1(PC)`, the opcode fetch (rule R91). -/
def m1 (s : State) : State :=
  let a := s.cpu.pc
  let s := contend a 4 1 (s.upd fun c => { c with r := bumpRefresh c.r })
  (logEvent .m1 a (s.byteAt a) s).upd fun c => { c with pc := a + 1 }

/-- `MR(PC)` of an operand byte, which advances PC (10_state.md rule R44). -/
def mrPc (s : State) : State := (mr s.cpu.pc s).upd fun c => { c with pc := c.pc + 1 }

/-- `IC(a, n)`: n internal cycles charged to address a (rule R92). -/
def ic (a : Word) (n : Nat) (s : State) : State := contend a 1 n s

/-- `IC(IR, n)` (rule R92). -/
def icIR (n : Nat) (s : State) : State := ic s.cpu.ir n s

/-- `ioContend(p)` (rule R97), always 4 t-states plus contention. -/
def ioContend (p : Word) (s : State) : State :=
  if p.getLsbD 0 = false then
    consultTable 3 (if isContended p then consultTable 1 s else passTime 1 s)
  else if isContended p then consultTable 1 (consultTable 1 (consultTable 1 (consultTable 1 s)))
  else passTime 4 s

/-- The value a port read returns (rule R95), a free value (log entry 3): it is drawn at the t and trace before the
access. -/
def portIn (p : Word) (s : State) : Byte := Config.busIn p s.t s.trace

/-- `IOR(p)` (rule R95). The byte read is `portIn p s`. -/
def ior (p : Word) (s : State) : State := logEvent .ior p (portIn p s) (ioContend p s)

/-- `IOW(p, v)` (rule R96). -/
def iow (p : Word) (v : Byte) (s : State) : State := logEvent .iow p v (ioContend p s)

/-! ### Word accesses and the stack (92_eei_decisions.md D5) -/

/-- `MR(a) MR(a+1)`. The word read is `s.wordAt a`. -/
def mr2 (a : Word) (s : State) : State := mr (a + 1) (mr a s)

/-- `MW(a, lo(w)) MW(a+1, hi(w))`, low byte first. -/
def mw2 (a w : Word) (s : State) : State := mw (a + 1) (hiByte w) (mw a (loByte w) s)

/-- `SP <- lo16(SP-1); MW(SP, v)`. -/
def pushByte (v : Byte) (s : State) : State := mw (s.cpu.sp - 1) v (s.upd fun c => { c with sp := c.sp - 1 })

/-- A push, high byte first (41_load16_exchange.md rule R226). -/
def push (w : Word) (s : State) : State := pushByte (loByte w) (pushByte (hiByte w) s)

/-- `MR(SP); SP <- lo16(SP+1)`. -/
def popByte (s : State) : State := (mr s.cpu.sp s).upd fun c => { c with sp := c.sp + 1 }

/-- A pop, low byte first (rule R227). The word popped is `s.wordAt s.cpu.sp`. -/
def pop (s : State) : State := popByte (popByte s)

/-- `PC <- w; MEMPTR <- w`. -/
def jumpTo (w : Word) (s : State) : State := s.upd fun c => { c with pc := w, memptr := w }

/-- The effect of RET (45_control.md rule R368): pop into PC; MEMPTR is the new PC. -/
def returnFromCall (s : State) : State := jumpTo (s.wordAt s.cpu.sp) (pop s)

/-- The return from an interrupt or NMI handler (rules R375, R376): RET, then `IFF1 <- IFF2`. -/
def returnFromInterrupt (s : State) : State := (returnFromCall s).upd fun c => { c with iff1 := c.iff2 }

/-! ### The end of a step (10_state.md rules R50, R54; 60_exceptions.md rule R523) -/

/-- The next state, or the fault a primitive met (rule R520). -/
def outcome (s : State) : Result :=
  match s.fault with
  | none   => .next s
  | some r => .fault r

/-- The end of an instruction whose Q line says 0: `Q <- 0; EI_SHADOW <- 0`. -/
def endPlain (s : State) : Result := outcome (s.upd fun c => { c with q := 0, eiShadow := false })

/-- The end of an instruction whose Q line says F: `Q <- F; EI_SHADOW <- 0`. -/
def endFlags (s : State) : Result := outcome (s.upd fun c => { c with q := c.f, eiShadow := false })

/-- The end of EI and of a lone prefix: `Q <- 0; EI_SHADOW <- 1`. -/
def endShadow (s : State) : Result := outcome (s.upd fun c => { c with q := 0, eiShadow := true })

/-! ### Taking an interrupt or an NMI (60_exceptions.md rules R525 to R530) -/

/-- "clear HALT (and advance PC past the HALT ...)": step 1 of rules R526 and R530. -/
def Cpu.leaveHalt (c : Cpu) : Cpu := if c.halt then { c with halt := false, pc := c.pc + 1 } else c

/-- What every acknowledge does: leave HALT, increment R, `T(wait)`, push PC (steps 1, 3, 4, 5). -/
def acknowledge (wait : Nat) (s : State) : State :=
  let s := passTime wait (s.upd fun c => { c.leaveHalt with r := bumpRefresh c.r })
  push s.cpu.pc s

/-- `PC <-` the handler, `MEMPTR <- PC; Q <- 0` (steps 6, 7). -/
def enterHandler (w : Word) (s : State) : State := (jumpTo w s).upd fun c => { c with q := 0 }

/-- The table address of IM 2, `I:0xFF` (rule R527). -/
def im2Vector (s : State) : Word := join s.cpu.i 0xFF

/-- An accepted maskable interrupt (rules R526, R527). -/
def takeInterrupt (s : State) : State :=
  let s := acknowledge 7 (s.upd fun c => { c with iff1 := false, iff2 := false })
  match s.cpu.im with
  | .im0 => enterHandler 0x0038 s
  | .im1 => enterHandler 0x0038 s
  | .im2 => enterHandler (s.wordAt (im2Vector s)) (mr2 (im2Vector s) s)

/-- An NMI (rule R530). -/
def takeNmi (s : State) : State :=
  (enterHandler 0x0066 (acknowledge 5 (s.upd fun c => { c with iff1 := false }))).upd
    fun c => { c with eiShadow := false }

/-! ### Reset (70_reset_and_hazards.md rules R551, R552) -/

/-- `reset(true)` on the registers: every one becomes 0. -/
def Cpu.hardReset (_ : Cpu) : Cpu := .zero

/-- `reset(false)` on the registers: the general registers, SP, the index registers and MEMPTR are kept. -/
def Cpu.softReset (c : Cpu) : Cpu :=
  { c with pc := 0, i := 0, r := 0, iff1 := false, iff2 := false, im := .im0, halt := false, eiShadow := false, q := 0 }

end Sys2Proof.Machine
end

