-- ==== Sys2Proof/Machine/Alu16.lean ====
section
/-! DEFINITION. 16-bit arithmetic (43_alu16.md). -/

namespace Sys2Proof.Machine

/-- HL, F and MEMPTR `HL_old + 1` of a 16-bit sum or difference (rules R300 to R302). -/
def Cpu.setSum (rf : Word × Byte) (c : Cpu) : Cpu := { c.setHl rf.1 with f := rf.2, memptr := c.hl + 1 }

/-- Rule R300. -/
def execAddHlRp (rr : Rp) (s : State) : Result :=
  endFlags ((icIR 7 (m1 s)).upd fun c => c.setSum (add16 c.hl (c.getRp rr) c.f))

/-- Rule R301. -/
def execAdcHlRp (rr : Rp) (s : State) : Result :=
  endFlags ((icIR 7 (m1 (m1 s))).upd fun c => c.setSum (adc16 c.hl (c.getRp rr) (flagC c.f)))

/-- Rule R302. -/
def execSbcHlRp (rr : Rp) (s : State) : Result :=
  endFlags ((icIR 7 (m1 (m1 s))).upd fun c => c.setSum (sbc16 c.hl (c.getRp rr) (flagC c.f)))

/-- Rule R303. -/
def execIncRp (rr : Rp) (s : State) : Result :=
  endPlain ((icIR 2 (m1 s)).upd fun c => c.setRp rr (c.getRp rr + 1))

/-- Rule R304. -/
def execDecRp (rr : Rp) (s : State) : Result :=
  endPlain ((icIR 2 (m1 s)).upd fun c => c.setRp rr (c.getRp rr - 1))

end Sys2Proof.Machine
end

