-- ==== Sys2Proof/Machine/Alu8.lean ====
section
/-! DEFINITION. 8-bit arithmetic and logic (42_alu8.md). The flag functions stand in Flags.lean; here they are given
the accumulator and the carry (rule R248), applied to the three operand forms. -/

namespace Sys2Proof.Machine

/-! ### The eight operations on A (rule R248): (new A, F′) -/

/-- `add8(A, v, 0)`. -/
def accAdd (c : Cpu) (v : Byte) : Byte × Byte := add8 c.a v false
/-- `add8(A, v, F.C)`. -/
def accAdc (c : Cpu) (v : Byte) : Byte × Byte := add8 c.a v (flagC c.f)
/-- `sub8(A, v, 0)`. -/
def accSub (c : Cpu) (v : Byte) : Byte × Byte := sub8 c.a v false
/-- `sub8(A, v, F.C)`. -/
def accSbc (c : Cpu) (v : Byte) : Byte × Byte := sub8 c.a v (flagC c.f)
/-- `and8(A, v)`. -/
def accAnd (c : Cpu) (v : Byte) : Byte × Byte := and8 c.a v
/-- `xor8(A, v)`. -/
def accXor (c : Cpu) (v : Byte) : Byte × Byte := xor8 c.a v
/-- `or8(A, v)`. -/
def accOr (c : Cpu) (v : Byte) : Byte × Byte := or8 c.a v
/-- `cp8(A, v)`: A keeps its value. -/
def accCp (c : Cpu) (v : Byte) : Byte × Byte := (c.a, cp8 c.a v)

/-- Writes A and F. -/
def Cpu.setAcc (rf : Byte × Byte) (c : Cpu) : Cpu := { c with a := rf.1, f := rf.2 }

/-! ### The operand forms -/

/-- `M1(pc)`, operand a register. -/
def accOnR (op : Cpu → Byte → Byte × Byte) (r : Reg8) (s : State) : Result :=
  endFlags ((m1 s).upd fun c => c.setAcc (op c (c.getR r)))

/-- `M1(pc) MR(pc+1)`, operand the immediate byte. -/
def accOnN (op : Cpu → Byte → Byte × Byte) (n : Byte) (s : State) : Result :=
  endFlags ((mrPc (m1 s)).upd fun c => c.setAcc (op c n))

/-- `M1(pc) MR(HL)`, operand the byte at HL. -/
def accOnMhl (op : Cpu → Byte → Byte × Byte) (s : State) : Result :=
  let s := m1 s
  let v := s.byteAt s.cpu.hl
  endFlags ((mr s.cpu.hl s).upd fun c => c.setAcc (op c v))

/-! ### ALU A,r -/

/-- Rule R250. -/
def execAddAR (r : Reg8) (s : State) : Result := accOnR accAdd r s
/-- Rule R251. -/
def execAdcAR (r : Reg8) (s : State) : Result := accOnR accAdc r s
/-- Rule R252. -/
def execSubR (r : Reg8) (s : State) : Result := accOnR accSub r s
/-- Rule R253. -/
def execSbcAR (r : Reg8) (s : State) : Result := accOnR accSbc r s
/-- Rule R254. -/
def execAndR (r : Reg8) (s : State) : Result := accOnR accAnd r s
/-- Rule R255. -/
def execXorR (r : Reg8) (s : State) : Result := accOnR accXor r s
/-- Rule R256. -/
def execOrR (r : Reg8) (s : State) : Result := accOnR accOr r s
/-- Rule R257. -/
def execCpR (r : Reg8) (s : State) : Result := accOnR accCp r s

/-! ### ALU A,n -/

/-- Rule R258. -/
def execAddAN (n : Byte) (s : State) : Result := accOnN accAdd n s
/-- Rule R259. -/
def execAdcAN (n : Byte) (s : State) : Result := accOnN accAdc n s
/-- Rule R260. -/
def execSubN (n : Byte) (s : State) : Result := accOnN accSub n s
/-- Rule R261. -/
def execSbcAN (n : Byte) (s : State) : Result := accOnN accSbc n s
/-- Rule R262. -/
def execAndN (n : Byte) (s : State) : Result := accOnN accAnd n s
/-- Rule R263. -/
def execXorN (n : Byte) (s : State) : Result := accOnN accXor n s
/-- Rule R264. -/
def execOrN (n : Byte) (s : State) : Result := accOnN accOr n s
/-- Rule R265. -/
def execCpN (n : Byte) (s : State) : Result := accOnN accCp n s

/-! ### ALU A,(HL) -/

/-- Rule R266. -/
def execAddAMhl (s : State) : Result := accOnMhl accAdd s
/-- Rule R267. -/
def execAdcAMhl (s : State) : Result := accOnMhl accAdc s
/-- Rule R268. -/
def execSubMhl (s : State) : Result := accOnMhl accSub s
/-- Rule R269. -/
def execSbcAMhl (s : State) : Result := accOnMhl accSbc s
/-- Rule R270. -/
def execAndMhl (s : State) : Result := accOnMhl accAnd s
/-- Rule R271. -/
def execXorMhl (s : State) : Result := accOnMhl accXor s
/-- Rule R272. -/
def execOrMhl (s : State) : Result := accOnMhl accOr s
/-- Rule R273. -/
def execCpMhl (s : State) : Result := accOnMhl accCp s

/-! ### Increment and decrement -/

/-- `MR(a) IC(a,1) MW(a, res)`: a memory byte is read, changed and written back. -/
def modifyByte (a : Word) (res : Byte) (s : State) : State := mw a res (ic a 1 (mr a s))

/-- Rule R280. -/
def execIncR (r : Reg8) (s : State) : Result :=
  endFlags ((m1 s).upd fun c => { c.setR r (inc8 (c.getR r) c.f).1 with f := (inc8 (c.getR r) c.f).2 })

/-- Rule R281. -/
def execIncMhl (s : State) : Result :=
  let s := m1 s
  let rf := inc8 (s.byteAt s.cpu.hl) s.cpu.f
  endFlags ((modifyByte s.cpu.hl rf.1 s).upd fun c => { c with f := rf.2 })

/-- Rule R282. -/
def execDecR (r : Reg8) (s : State) : Result :=
  endFlags ((m1 s).upd fun c => { c.setR r (dec8 (c.getR r) c.f).1 with f := (dec8 (c.getR r) c.f).2 })

/-- Rule R283. -/
def execDecMhl (s : State) : Result :=
  let s := m1 s
  let rf := dec8 (s.byteAt s.cpu.hl) s.cpu.f
  endFlags ((modifyByte s.cpu.hl rf.1 s).upd fun c => { c with f := rf.2 })

/-! ### Accumulator adjust, complement, negate, carry flag -/

/-- Rule R290. -/
def execDaa (s : State) : Result := endFlags ((m1 s).upd fun c => c.setAcc (daa8 c.a c.f))

/-- Rule R291. -/
def execCpl (s : State) : Result := endFlags ((m1 s).upd fun c => c.setAcc (cpl8 c.a c.f))

/-- Rule R292: every y does the same. -/
def execNeg (_ : Fin 8) (s : State) : Result := endFlags ((m1 (m1 s)).upd fun c => c.setAcc (sub8 0 c.a false))

/-- Rule R298. -/
def execScf (s : State) : Result :=
  endFlags ((m1 s).upd fun c => { c with f := scfFlags Config.scfCcfXy c.a c.f c.q })

/-- Rule R299. -/
def execCcf (s : State) : Result :=
  endFlags ((m1 s).upd fun c => { c with f := ccfFlags Config.scfCcfXy c.a c.f c.q })

end Sys2Proof.Machine
end

