-- ==== Sys2Proof/Machine/Block.lean ====
section
/-! DEFINITION. The block instructions (46_block.md). One step is one iteration (rule R390). `delta` is 1 for the
incrementing forms and -1 (0xFFFF) for the decrementing ones. -/

namespace Sys2Proof.Machine

/-- The end of a looping iteration: `IC(addr, 5); PC <- pc; MEMPTR <- lo16(pc + 1)` (rule R390). -/
def repeatAt (pc addr : Word) (s : State) : State :=
  (ic addr 5 s).upd fun c => { c with pc := pc, memptr := pc + 1 }

/-! ### Block transfer -/

/-- `MR(HL) MW(DE, v) IC(DE,2)`, the registers and the flags of LDI and LDD (rules R392, R393). -/
def ldBlock (delta : Word) (s : State) : State :=
  let hl := s.cpu.hl
  let de := s.cpu.de
  let bc1 := s.cpu.bc - 1
  let v := s.byteAt hl
  (ic de 2 (mw de v (mr hl s))).upd fun c =>
    { ((c.setHl (hl + delta)).setDe (de + delta)).setBc bc1 with f := ldBlockFlags c.a v bc1 c.f }

/-- The repeating form: loops while `BC1 ≠ 0` (rule R391), the extra cycles at DE0. -/
def ldBlockRepeat (delta : Word) (s : State) : Result :=
  let pc := s.cpu.pc
  let de := s.cpu.de
  let s := ldBlock delta (m1 (m1 s))
  endFlags (if s.cpu.bc ≠ 0 then repeatAt pc de s else s)

/-- Rule R392. -/
def execLdi (s : State) : Result := endFlags (ldBlock 1 (m1 (m1 s)))
/-- Rule R393. -/
def execLdd (s : State) : Result := endFlags (ldBlock (-1) (m1 (m1 s)))
/-- Rule R394. -/
def execLdir (s : State) : Result := ldBlockRepeat 1 s
/-- Rule R395. -/
def execLddr (s : State) : Result := ldBlockRepeat (-1) s

/-! ### Block search -/

/-- `MR(HL) IC(HL0,5)`, the registers and the flags of CPI and CPD (rules R396, R397). -/
def cpBlock (delta : Word) (s : State) : State :=
  let hl := s.cpu.hl
  let bc1 := s.cpu.bc - 1
  let v := s.byteAt hl
  (ic hl 5 (mr hl s)).upd fun c =>
    { (c.setHl (hl + delta)).setBc bc1 with f := cpBlockFlags c.a v bc1 c.f, memptr := c.memptr + delta }

/-- The repeating form: loops while `BC1 ≠ 0` and `A ≠ v` (rule R391), the extra cycles at HL0. -/
def cpBlockRepeat (delta : Word) (s : State) : Result :=
  let pc := s.cpu.pc
  let hl := s.cpu.hl
  let found := s.cpu.a == s.byteAt hl
  let s := cpBlock delta (m1 (m1 s))
  endFlags (if s.cpu.bc ≠ 0 ∧ found = false then repeatAt pc hl s else s)

/-- Rule R396. -/
def execCpi (s : State) : Result := endFlags (cpBlock 1 (m1 (m1 s)))
/-- Rule R397. -/
def execCpd (s : State) : Result := endFlags (cpBlock (-1) (m1 (m1 s)))
/-- Rule R398. -/
def execCpir (s : State) : Result := cpBlockRepeat 1 s
/-- Rule R399. -/
def execCpdr (s : State) : Result := cpBlockRepeat (-1) s

/-! ### Block input -/

/-- `IC(IR,1) IOR(BC0) MW(HL, v)`, the registers and the flags of INI and IND (rules R400 to R402). The port address
uses B before the decrement. -/
def inBlock (delta : Word) (s : State) : State :=
  let s := icIR 1 s
  let bc := s.cpu.bc
  let hl := s.cpu.hl
  let v := portIn bc s
  let b1 := s.cpu.b - 1
  let k := v.toNat + (s.cpu.c + loByte delta).toNat
  (mw hl v (ior bc s)).upd fun c =>
    { c.setHl (hl + delta) with b := b1, f := bioFlags v k b1, memptr := bc + delta }

/-- The repeating form: loops while `B1 ≠ 0` (rule R391), the extra cycles at HL0. -/
def inBlockRepeat (delta : Word) (s : State) : Result :=
  let pc := s.cpu.pc
  let hl := s.cpu.hl
  let s := inBlock delta (m1 (m1 s))
  endFlags (if s.cpu.b ≠ 0 then repeatAt pc hl s else s)

/-- Rule R401. -/
def execIni (s : State) : Result := endFlags (inBlock 1 (m1 (m1 s)))
/-- Rule R402. -/
def execInd (s : State) : Result := endFlags (inBlock (-1) (m1 (m1 s)))
/-- Rule R403. -/
def execInir (s : State) : Result := inBlockRepeat 1 s
/-- Rule R404. -/
def execIndr (s : State) : Result := inBlockRepeat (-1) s

/-! ### Block output -/

/-- `IC(IR,1) MR(HL0) IOW(BC1, v)`, the registers and the flags of OUTI and OUTD (rules R400, R405, R406). The port
address uses B after the decrement; k adds the low byte of HL after its update. -/
def outBlock (delta : Word) (s : State) : State :=
  let s := icIR 1 s
  let hl := s.cpu.hl
  let v := s.byteAt hl
  let b1 := s.cpu.b - 1
  let bc1 := join b1 s.cpu.c
  let k := v.toNat + (loByte (hl + delta)).toNat
  (iow bc1 v (mr hl s)).upd fun c =>
    { c.setHl (hl + delta) with b := b1, f := bioFlags v k b1, memptr := bc1 + delta }

/-- The repeating form: loops while `B1 ≠ 0` (rule R391), the extra cycles at BC1. -/
def outBlockRepeat (delta : Word) (s : State) : Result :=
  let pc := s.cpu.pc
  let s := outBlock delta (m1 (m1 s))
  endFlags (if s.cpu.b ≠ 0 then repeatAt pc s.cpu.bc s else s)

/-- Rule R405. -/
def execOuti (s : State) : Result := endFlags (outBlock 1 (m1 (m1 s)))
/-- Rule R406. -/
def execOutd (s : State) : Result := endFlags (outBlock (-1) (m1 (m1 s)))
/-- Rule R407. -/
def execOtir (s : State) : Result := outBlockRepeat 1 s
/-- Rule R408. -/
def execOtdr (s : State) : Result := outBlockRepeat (-1) s

end Sys2Proof.Machine
end

