-- ==== Sys2Proof/Machine/Control.lean ====
section
/-! DEFINITION. Jumps, calls, returns and restarts (45_control.md). -/

namespace Sys2Proof.Machine

/-! ### Jumps -/

/-- Rule R360. -/
def execJp (nn : Word) (s : State) : Result := endPlain (jumpTo nn (mrPc (mrPc (m1 s))))

/-- Rule R361: MEMPTR is nn whether or not the jump is taken. -/
def execJpCc (cc : Cond) (nn : Word) (s : State) : Result :=
  let s := mrPc (mrPc (m1 s))
  endPlain (s.upd fun c => { c with pc := if condHolds cc c.f then nn else c.pc, memptr := nn })

/-- A taken relative jump: `IC(pc+1,5)`, then PC and MEMPTR are `lo16(pc + 2 + sext_8(e))` (30_encoding.md rule R139);
PC stands behind the displacement byte. -/
def jumpRelative (e : Byte) (s : State) : State := jumpTo (s.cpu.pc + sext8 e) (ic (s.cpu.pc - 1) 5 s)

/-- Rule R362. -/
def execJr (e : Byte) (s : State) : Result := endPlain (jumpRelative e (mrPc (m1 s)))

/-- Rule R363. -/
def execJrCc (cc : JrCond) (e : Byte) (s : State) : Result :=
  let s := mrPc (m1 s)
  endPlain (if jrCondHolds cc s.cpu.f then jumpRelative e s else s)

/-- Rule R364: `IC(IR,1)` stands before the displacement is read. -/
def execDjnz (e : Byte) (s : State) : Result :=
  let s := (mrPc (icIR 1 (m1 s))).upd fun c => { c with b := c.b - 1 }
  endPlain (if s.cpu.b ≠ 0 then jumpRelative e s else s)

/-- Rule R365: no memory is read at HL. -/
def execJpHl (s : State) : Result := endPlain ((m1 s).upd fun c => { c with pc := c.hl })

/-! ### Calls -/

/-- The taken call after its fetch: `IC(pc+2,1)`, push the return address, jump (rule R366). -/
def callTo (nn : Word) (s : State) : State := jumpTo nn (push s.cpu.pc (ic (s.cpu.pc - 1) 1 s))

/-- Rule R366. -/
def execCall (nn : Word) (s : State) : Result := endPlain (callTo nn (mrPc (mrPc (m1 s))))

/-- Rule R367: MEMPTR is nn whether or not the call is taken. -/
def execCallCc (cc : Cond) (nn : Word) (s : State) : Result :=
  let s := mrPc (mrPc (m1 s))
  endPlain (if condHolds cc s.cpu.f then callTo nn s else s.upd fun c => { c with memptr := nn })

/-! ### Returns -/

/-- Rule R368. -/
def execRet (s : State) : Result := endPlain (returnFromCall (m1 s))

/-- Rule R369. -/
def execRetCc (cc : Cond) (s : State) : Result :=
  let s := icIR 1 (m1 s)
  endPlain (if condHolds cc s.cpu.f then returnFromCall s else s)

/-- Rule R375: the duplicates do the same. -/
def execRetn (_ : Fin 8) (s : State) : Result := endPlain (returnFromInterrupt (m1 (m1 s)))

/-- Rule R376 (92_eei_decisions.md D32). -/
def execReti (s : State) : Result := endPlain (returnFromInterrupt (m1 (m1 s)))

/-! ### Restarts -/

/-- The target of RST: `y × 8` (rule R377). -/
def rstTarget (y : Fin 8) : Word := BitVec.ofNat 16 (8 * y.val)

/-- Rule R377. -/
def execRst (y : Fin 8) (s : State) : Result :=
  let s := icIR 1 (m1 s)
  endPlain (jumpTo (rstTarget y) (push s.cpu.pc s))

end Sys2Proof.Machine
end

