-- ==== Sys2Proof/Machine/Load16.lean ====
section
/-! DEFINITION. The 16-bit loads, stack and exchange instructions (41_load16_exchange.md). -/

namespace Sys2Proof.Machine

/-- Rule R220. -/
def execLdRpNn (rr : Rp) (nn : Word) (s : State) : Result :=
  endPlain ((mrPc (mrPc (m1 s))).upd fun c => c.setRp rr nn)

/-- Rule R221. -/
def execLdHlMnn (nn : Word) (s : State) : Result :=
  let s := mrPc (mrPc (m1 s))
  let w := s.wordAt nn
  endPlain ((mr2 nn s).upd fun c => { c.setHl w with memptr := nn + 1 })

/-- Rule R222. -/
def execLdMnnHl (nn : Word) (s : State) : Result :=
  let s := mrPc (mrPc (m1 s))
  endPlain ((mw2 nn s.cpu.hl s).upd fun c => { c with memptr := nn + 1 })

/-- Rule R223. -/
def execLdRpMnn (rr : Rp) (nn : Word) (s : State) : Result :=
  let s := mrPc (mrPc (m1 (m1 s)))
  let w := s.wordAt nn
  endPlain ((mr2 nn s).upd fun c => { c.setRp rr w with memptr := nn + 1 })

/-- Rule R224. -/
def execLdMnnRp (rr : Rp) (nn : Word) (s : State) : Result :=
  let s := mrPc (mrPc (m1 (m1 s)))
  endPlain ((mw2 nn (s.cpu.getRp rr) s).upd fun c => { c with memptr := nn + 1 })

/-- Rule R225. -/
def execLdSpHl (s : State) : Result :=
  endPlain ((icIR 2 (m1 s)).upd fun c => { c with sp := c.hl })

/-- Rule R226. -/
def execPushQq (qq : Rp2) (s : State) : Result :=
  endPlain (push (s.cpu.getRp2 qq) (icIR 1 (m1 s)))

/-- Rule R227. `POP AF` writes all of F from memory and has Q 0 (92_eei_decisions.md D4). -/
def execPopQq (qq : Rp2) (s : State) : Result :=
  let s := m1 s
  let w := s.wordAt s.cpu.sp
  endPlain ((pop s).upd fun c => c.setRp2 qq w)

/-- Rule R228. -/
def execExDeHl (s : State) : Result :=
  endPlain ((m1 s).upd fun c => { c with d := c.h, e := c.l, h := c.d, l := c.e })

/-- `MR(SP) MR(SP+1) IC(SP+1,1) MW(SP+1, hi(w)) MW(SP, lo(w)) IC(SP,2)` (rules R229, R470). -/
def swapTop (w : Word) (s : State) : State :=
  let sp := s.cpu.sp
  ic sp 2 (mw sp (loByte w) (mw (sp + 1) (hiByte w) (ic (sp + 1) 1 (mr2 sp s))))

/-- Rule R229. -/
def execExMspHl (s : State) : Result :=
  let s := m1 s
  let w := s.wordAt s.cpu.sp
  endPlain ((swapTop s.cpu.hl s).upd fun c => { c.setHl w with memptr := w })

/-- Rule R230: no flag computation, Q 0 (92_eei_decisions.md D4). -/
def execExAfAf (s : State) : Result :=
  endPlain ((m1 s).upd fun c => { c with a := c.aAlt, f := c.fAlt, aAlt := c.a, fAlt := c.f })

/-- Rule R231: AF, IX and IY are not swapped. -/
def execExx (s : State) : Result :=
  endPlain ((m1 s).upd fun c =>
    { c with
      b := c.bAlt, c := c.cAlt, d := c.dAlt, e := c.eAlt, h := c.hAlt, l := c.lAlt
      bAlt := c.b, cAlt := c.c, dAlt := c.d, eAlt := c.e, hAlt := c.h, lAlt := c.l })

end Sys2Proof.Machine
end

