-- ==== Sys2Proof/Machine/Rotate.lean ====
section
/-! DEFINITION. Rotates, shifts, bit operations, RLD and RRD (44_rotate_bit.md). -/

namespace Sys2Proof.Machine

/-! ### Accumulator rotates -/

/-- `M1(pc)`; A and F by a rotate of A (rule R320). -/
def rotA (rot : Bool → Byte → Byte × Bool) (s : State) : Result :=
  endFlags ((m1 s).upd fun c => c.setAcc ((rot (flagC c.f) c.a).1, rotAFlags (rot (flagC c.f) c.a) c.f))

/-- Rule R320. -/
def execRlca (s : State) : Result := rotA (fun _ => rotRlc) s
/-- Rule R321. -/
def execRrca (s : State) : Result := rotA (fun _ => rotRrc) s
/-- Rule R322. -/
def execRla (s : State) : Result := rotA rotRl s
/-- Rule R323. -/
def execRra (s : State) : Result := rotA rotRr s

/-! ### The operand forms of the CB family. `rot` is given the carry F.C and the byte. -/

/-- `M1(pc) M1(pc+1)`, on a register (rules R324 to R332). -/
def rotOnR (rot : Bool → Byte → Byte × Bool) (r : Reg8) (s : State) : Result :=
  endFlags ((m1 (m1 s)).upd fun c =>
    { c.setR r (rot (flagC c.f) (c.getR r)).1 with f := rotFlags (rot (flagC c.f) (c.getR r)) })

/-- `M1(pc) M1(pc+1) MR(HL) IC(HL,1) MW(HL, res)` (rules R333 to R340). -/
def rotOnMhl (rot : Bool → Byte → Byte × Bool) (s : State) : Result :=
  let s := m1 (m1 s)
  let rc := rot (flagC s.cpu.f) (s.byteAt s.cpu.hl)
  endFlags ((modifyByte s.cpu.hl rc.1 s).upd fun c => { c with f := rotFlags rc })

/-! ### CB rotates and shifts on a register -/

/-- Rule R325. -/
def execRlcR (r : Reg8) (s : State) : Result := rotOnR (fun _ => rotRlc) r s
/-- Rule R326. -/
def execRrcR (r : Reg8) (s : State) : Result := rotOnR (fun _ => rotRrc) r s
/-- Rule R327. -/
def execRlR (r : Reg8) (s : State) : Result := rotOnR rotRl r s
/-- Rule R328. -/
def execRrR (r : Reg8) (s : State) : Result := rotOnR rotRr r s
/-- Rule R329. -/
def execSlaR (r : Reg8) (s : State) : Result := rotOnR (fun _ => rotSla) r s
/-- Rule R330. -/
def execSraR (r : Reg8) (s : State) : Result := rotOnR (fun _ => rotSra) r s
/-- Rule R331. -/
def execSllR (r : Reg8) (s : State) : Result := rotOnR (fun _ => rotSll) r s
/-- Rule R332. -/
def execSrlR (r : Reg8) (s : State) : Result := rotOnR (fun _ => rotSrl) r s

/-! ### CB rotates and shifts on (HL) -/

/-- Rule R333. -/
def execRlcMhl (s : State) : Result := rotOnMhl (fun _ => rotRlc) s
/-- Rule R334. -/
def execRrcMhl (s : State) : Result := rotOnMhl (fun _ => rotRrc) s
/-- Rule R335. -/
def execRlMhl (s : State) : Result := rotOnMhl rotRl s
/-- Rule R336. -/
def execRrMhl (s : State) : Result := rotOnMhl rotRr s
/-- Rule R337. -/
def execSlaMhl (s : State) : Result := rotOnMhl (fun _ => rotSla) s
/-- Rule R338. -/
def execSraMhl (s : State) : Result := rotOnMhl (fun _ => rotSra) s
/-- Rule R339. -/
def execSllMhl (s : State) : Result := rotOnMhl (fun _ => rotSll) s
/-- Rule R340. -/
def execSrlMhl (s : State) : Result := rotOnMhl (fun _ => rotSrl) s

/-! ### Bit test, reset and set -/

/-- Rule R341: Y and X from the register. -/
def execBitR (b : Fin 8) (r : Reg8) (s : State) : Result :=
  endFlags ((m1 (m1 s)).upd fun c => { c with f := bitFlags b (c.getR r) (c.getR r) c.f })

/-- Rule R345: Y and X from the high byte of MEMPTR. -/
def execBitMhl (b : Fin 8) (s : State) : Result :=
  let s := m1 (m1 s)
  let hl := s.cpu.hl
  let v := s.byteAt hl
  endFlags ((ic hl 1 (mr hl s)).upd fun c => { c with f := bitFlags b v (hiByte c.memptr) c.f })

/-- Rule R346. -/
def execResR (b : Fin 8) (r : Reg8) (s : State) : Result :=
  endPlain ((m1 (m1 s)).upd fun c => c.setR r (resBit b (c.getR r)))

/-- Rule R347. -/
def execResMhl (b : Fin 8) (s : State) : Result :=
  let s := m1 (m1 s)
  endPlain (modifyByte s.cpu.hl (resBit b (s.byteAt s.cpu.hl)) s)

/-- Rule R348. -/
def execSetR (b : Fin 8) (r : Reg8) (s : State) : Result :=
  endPlain ((m1 (m1 s)).upd fun c => c.setR r (setBit b (c.getR r)))

/-- Rule R349. -/
def execSetMhl (b : Fin 8) (s : State) : Result :=
  let s := m1 (m1 s)
  endPlain (modifyByte s.cpu.hl (setBit b (s.byteAt s.cpu.hl)) s)

/-! ### Decimal rotates -/

/-- `M1 M1 MR(HL) IC(HL,4) MW(HL, res)`, A, F and MEMPTR `HL + 1` (rules R350, R351). -/
def decimalRotate (rot : Byte → Byte → Byte × Byte) (s : State) : Result :=
  let s := m1 (m1 s)
  let hl := s.cpu.hl
  let ma := rot s.cpu.a (s.byteAt hl)
  endFlags ((mw hl ma.1 (ic hl 4 (mr hl s))).upd fun c =>
    { c with a := ma.2, f := szpKeepC ma.2 c.f, memptr := hl + 1 })

/-- Rule R350. -/
def execRld (s : State) : Result := decimalRotate rldBytes s
/-- Rule R351. -/
def execRrd (s : State) : Result := decimalRotate rrdBytes s

end Sys2Proof.Machine
end

