-- ==== Sys2Proof/Machine/Index.lean ====
section
/-! DEFINITION. The index-register instructions (48_index.md). `x` selects IX or IY. -/

namespace Sys2Proof.Machine

/-! ### Fetch and addressing (rules R450, R452) -/

/-- `M1(pc) M1(pc+1) MR(pc+2) IC(pc+2,5)`: the fetch of a form with a displacement. -/
def fetchXyD (s : State) : State :=
  let s := mrPc (m1 (m1 s))
  ic (s.cpu.pc - 1) 5 s

/-- `M1(pc) M1(pc+1) MR(pc+2) MR(pc+3) IC(pc+3,2)`: the fetch of a DDCB/FDCB form, and of `LD (XY+d),n`. -/
def fetchXyCb (s : State) : State :=
  let s := mrPc (mrPc (m1 (m1 s)))
  ic (s.cpu.pc - 1) 2 s

/-- `MEMPTR <- ea`. -/
def setMemptr (a : Word) (s : State) : State := s.upd fun c => { c with memptr := a }

/-! ### 16-bit index operations -/

/-- Rule R453. -/
def execLdXyNn (x : XY) (nn : Word) (s : State) : Result :=
  endPlain ((mrPc (mrPc (m1 (m1 s)))).upd fun c => c.setXy x nn)

/-- Rule R454. -/
def execLdXyMnn (x : XY) (nn : Word) (s : State) : Result :=
  let s := mrPc (mrPc (m1 (m1 s)))
  let w := s.wordAt nn
  endPlain ((mr2 nn s).upd fun c => { c.setXy x w with memptr := nn + 1 })

/-- Rule R455. -/
def execLdMnnXy (x : XY) (nn : Word) (s : State) : Result :=
  let s := mrPc (mrPc (m1 (m1 s)))
  endPlain (setMemptr (nn + 1) (mw2 nn (s.cpu.getXy x) s))

/-- Rule R456. -/
def execAddXyRp (x : XY) (rr : RpXY) (s : State) : Result :=
  endFlags ((icIR 7 (m1 (m1 s))).upd fun c =>
    { c.setXy x (add16 (c.getXy x) (c.getRpXY x rr) c.f).1 with
      f := (add16 (c.getXy x) (c.getRpXY x rr) c.f).2, memptr := c.getXy x + 1 })

/-- Rule R457. -/
def execIncXy (x : XY) (s : State) : Result :=
  endPlain ((icIR 2 (m1 (m1 s))).upd fun c => c.setXy x (c.getXy x + 1))

/-- Rule R458. -/
def execDecXy (x : XY) (s : State) : Result :=
  endPlain ((icIR 2 (m1 (m1 s))).upd fun c => c.setXy x (c.getXy x - 1))

/-- Rule R468. -/
def execPushXy (x : XY) (s : State) : Result :=
  endPlain (push (s.cpu.getXy x) (icIR 1 (m1 (m1 s))))

/-- Rule R469. -/
def execPopXy (x : XY) (s : State) : Result :=
  let s := m1 (m1 s)
  let w := s.wordAt s.cpu.sp
  endPlain ((pop s).upd fun c => c.setXy x w)

/-- Rule R470. -/
def execExMspXy (x : XY) (s : State) : Result :=
  let s := m1 (m1 s)
  let w := s.wordAt s.cpu.sp
  endPlain ((swapTop (s.cpu.getXy x) s).upd fun c => { c.setXy x w with memptr := w })

/-- Rule R471. -/
def execJpXy (x : XY) (s : State) : Result :=
  endPlain ((m1 (m1 s)).upd fun c => { c with pc := c.getXy x })

/-- Rule R472. -/
def execLdSpXy (x : XY) (s : State) : Result :=
  endPlain ((icIR 2 (m1 (m1 s))).upd fun c => { c with sp := c.getXy x })

/-! ### 8-bit operations on XYh and XYl -/

/-- Rule R459. -/
def execIncHalf (x : XY) (k : Half) (s : State) : Result :=
  endFlags ((m1 (m1 s)).upd fun c =>
    { c.setHalf x k (inc8 (c.getHalf x k) c.f).1 with f := (inc8 (c.getHalf x k) c.f).2 })

/-- Rule R460. -/
def execDecHalf (x : XY) (k : Half) (s : State) : Result :=
  endFlags ((m1 (m1 s)).upd fun c =>
    { c.setHalf x k (dec8 (c.getHalf x k) c.f).1 with f := (dec8 (c.getHalf x k) c.f).2 })

/-- Rule R461. -/
def execLdHalfN (x : XY) (k : Half) (n : Byte) (s : State) : Result :=
  endPlain ((mrPc (m1 (m1 s))).upd fun c => c.setHalf x k n)

/-- Rule R465. -/
def execLdRRHalf (x : XY) (r r2 : Reg8) (s : State) : Result :=
  endPlain ((m1 (m1 s)).upd fun c => c.setRx x r (c.getRx x r2))

/-! ### Operations on (XY+d) -/

/-- Rule R462. -/
def execIncMxy (x : XY) (d : Byte) (s : State) : Result :=
  let s := fetchXyD s
  let ea := s.cpu.indexAddr x d
  let rf := inc8 (s.byteAt ea) s.cpu.f
  endFlags ((modifyByte ea rf.1 (setMemptr ea s)).upd fun c => { c with f := rf.2 })

/-- Rule R463. -/
def execDecMxy (x : XY) (d : Byte) (s : State) : Result :=
  let s := fetchXyD s
  let ea := s.cpu.indexAddr x d
  let rf := dec8 (s.byteAt ea) s.cpu.f
  endFlags ((modifyByte ea rf.1 (setMemptr ea s)).upd fun c => { c with f := rf.2 })

/-- Rule R464: `MR(pc+2) MR(pc+3) IC(pc+3,2)`, d before n. -/
def execLdMxyN (x : XY) (d n : Byte) (s : State) : Result :=
  let s := fetchXyCb s
  let ea := s.cpu.indexAddr x d
  endPlain (mw ea n (setMemptr ea s))

/-- Rule R466: r is the real register. -/
def execLdRMxy (x : XY) (r : Reg8) (d : Byte) (s : State) : Result :=
  let s := fetchXyD s
  let ea := s.cpu.indexAddr x d
  let v := s.byteAt ea
  endPlain ((mr ea (setMemptr ea s)).upd fun c => c.setR r v)

/-- Rule R467: r is the real register. -/
def execLdMxyR (x : XY) (r : Reg8) (d : Byte) (s : State) : Result :=
  let s := fetchXyD s
  let ea := s.cpu.indexAddr x d
  endPlain (mw ea (s.cpu.getR r) (setMemptr ea s))

/-! ### ALU A with XYh and XYl, and with (XY+d) -/

/-- `M1(pc) M1(pc+1)`, operand an index half. -/
def accOnHalf (op : Cpu → Byte → Byte × Byte) (x : XY) (k : Half) (s : State) : Result :=
  endFlags ((m1 (m1 s)).upd fun c => c.setAcc (op c (c.getHalf x k)))

/-- `M1(pc) M1(pc+1) MR(pc+2) IC(pc+2,5) MR(ea)`, operand the byte at ea. -/
def accOnMxy (op : Cpu → Byte → Byte × Byte) (x : XY) (d : Byte) (s : State) : Result :=
  let s := fetchXyD s
  let ea := s.cpu.indexAddr x d
  let v := s.byteAt ea
  endFlags ((mr ea (setMemptr ea s)).upd fun c => c.setAcc (op c v))

/-- Rule R474. -/
def execAddAHalf (x : XY) (k : Half) (s : State) : Result := accOnHalf accAdd x k s
/-- Rule R475. -/
def execAdcAHalf (x : XY) (k : Half) (s : State) : Result := accOnHalf accAdc x k s
/-- Rule R476. -/
def execSubHalf (x : XY) (k : Half) (s : State) : Result := accOnHalf accSub x k s
/-- Rule R477. -/
def execSbcAHalf (x : XY) (k : Half) (s : State) : Result := accOnHalf accSbc x k s
/-- Rule R478. -/
def execAndHalf (x : XY) (k : Half) (s : State) : Result := accOnHalf accAnd x k s
/-- Rule R479. -/
def execXorHalf (x : XY) (k : Half) (s : State) : Result := accOnHalf accXor x k s
/-- Rule R480. -/
def execOrHalf (x : XY) (k : Half) (s : State) : Result := accOnHalf accOr x k s
/-- Rule R481. -/
def execCpHalf (x : XY) (k : Half) (s : State) : Result := accOnHalf accCp x k s

/-- Rule R482. -/
def execAddAMxy (x : XY) (d : Byte) (s : State) : Result := accOnMxy accAdd x d s
/-- Rule R483. -/
def execAdcAMxy (x : XY) (d : Byte) (s : State) : Result := accOnMxy accAdc x d s
/-- Rule R484. -/
def execSubMxy (x : XY) (d : Byte) (s : State) : Result := accOnMxy accSub x d s
/-- Rule R485. -/
def execSbcAMxy (x : XY) (d : Byte) (s : State) : Result := accOnMxy accSbc x d s
/-- Rule R486. -/
def execAndMxy (x : XY) (d : Byte) (s : State) : Result := accOnMxy accAnd x d s
/-- Rule R487. -/
def execXorMxy (x : XY) (d : Byte) (s : State) : Result := accOnMxy accXor x d s
/-- Rule R488. -/
def execOrMxy (x : XY) (d : Byte) (s : State) : Result := accOnMxy accOr x d s
/-- Rule R489. -/
def execCpMxy (x : XY) (d : Byte) (s : State) : Result := accOnMxy accCp x d s

/-! ### DDCB/FDCB rotates and shifts -/

/-- `MR(ea) IC(ea,1) MW(ea, res); if z ≠ 6 then reg8(z) <- res`, MEMPTR `ea` (rules R490 to R497, R512, R513). -/
def modifyXyByte (ea : Word) (res : Byte) (cp : Option Reg8) (s : State) : State :=
  (modifyByte ea res (setMemptr ea s)).upd fun c => c.setCopy cp res

/-- The form of rules R490 to R497. -/
def rotOnMxy (rot : Bool → Byte → Byte × Bool) (x : XY) (d : Byte) (cp : Option Reg8) (s : State) : Result :=
  let s := fetchXyCb s
  let ea := s.cpu.indexAddr x d
  let rc := rot (flagC s.cpu.f) (s.byteAt ea)
  endFlags ((modifyXyByte ea rc.1 cp s).upd fun c => { c with f := rotFlags rc })

/-- Rule R490. -/
def execRlcMxy (x : XY) (d : Byte) (cp : Option Reg8) (s : State) : Result :=
  rotOnMxy (fun _ => rotRlc) x d cp s
/-- Rule R491. -/
def execRrcMxy (x : XY) (d : Byte) (cp : Option Reg8) (s : State) : Result :=
  rotOnMxy (fun _ => rotRrc) x d cp s
/-- Rule R492. -/
def execRlMxy (x : XY) (d : Byte) (cp : Option Reg8) (s : State) : Result :=
  rotOnMxy rotRl x d cp s
/-- Rule R493. -/
def execRrMxy (x : XY) (d : Byte) (cp : Option Reg8) (s : State) : Result :=
  rotOnMxy rotRr x d cp s
/-- Rule R494. -/
def execSlaMxy (x : XY) (d : Byte) (cp : Option Reg8) (s : State) : Result :=
  rotOnMxy (fun _ => rotSla) x d cp s
/-- Rule R495. -/
def execSraMxy (x : XY) (d : Byte) (cp : Option Reg8) (s : State) : Result :=
  rotOnMxy (fun _ => rotSra) x d cp s
/-- Rule R496. -/
def execSllMxy (x : XY) (d : Byte) (cp : Option Reg8) (s : State) : Result :=
  rotOnMxy (fun _ => rotSll) x d cp s
/-- Rule R497. -/
def execSrlMxy (x : XY) (d : Byte) (cp : Option Reg8) (s : State) : Result :=
  rotOnMxy (fun _ => rotSrl) x d cp s

/-! ### DDCB/FDCB bit operations -/

/-- Rule R511: MEMPTR is ea before the flags read it; z is ignored. -/
def execBitMxy (x : XY) (d : Byte) (b : Fin 8) (_ : Fin 8) (s : State) : Result :=
  let s := fetchXyCb s
  let ea := s.cpu.indexAddr x d
  let v := s.byteAt ea
  endFlags ((ic ea 1 (mr ea (setMemptr ea s))).upd fun c => { c with f := bitFlags b v (hiByte c.memptr) c.f })

/-- Rule R512. -/
def execResMxy (x : XY) (d : Byte) (b : Fin 8) (cp : Option Reg8) (s : State) : Result :=
  let s := fetchXyCb s
  let ea := s.cpu.indexAddr x d
  endPlain (modifyXyByte ea (resBit b (s.byteAt ea)) cp s)

/-- Rule R513. -/
def execSetMxy (x : XY) (d : Byte) (b : Fin 8) (cp : Option Reg8) (s : State) : Result :=
  let s := fetchXyCb s
  let ea := s.cpu.indexAddr x d
  endPlain (modifyXyByte ea (setBit b (s.byteAt ea)) cp s)

/-! ### Lone prefixes -/

/-- Rule R519: `M1(pc)` alone; the byte behind the prefix is left for the next step. -/
def execLonePrefix (_ : XY) (_ : Byte) (s : State) : Result := endShadow (m1 s)

end Sys2Proof.Machine
end

