-- ==== Sys2Proof/Machine/Io.lean ====
section
/-! DEFINITION. I/O and CPU control (47_io_cpu_control.md). -/

namespace Sys2Proof.Machine

/-! ### Input and output -/

/-- Rule R420: the port address is `A:n` with A from before the read. -/
def execInAMn (n : Byte) (s : State) : Result :=
  let s := mrPc (m1 s)
  let p := join s.cpu.a n
  let v := portIn p s
  endPlain ((ior p s).upd fun c => { c with a := v, memptr := p + 1 })

/-- Rule R421: the port address and MEMPTR use BC from before the write. -/
def execInRC (r : Reg8) (s : State) : Result :=
  let s := m1 (m1 s)
  let p := s.cpu.bc
  let v := portIn p s
  endFlags ((ior p s).upd fun c => { c.setR r v with f := szpKeepC v c.f, memptr := p + 1 })

/-- Rule R422: the value read is stored in no register. -/
def execInFC (s : State) : Result :=
  let s := m1 (m1 s)
  let p := s.cpu.bc
  let v := portIn p s
  endFlags ((ior p s).upd fun c => { c with f := szpKeepC v c.f, memptr := p + 1 })

/-- Rule R423. -/
def execOutMnA (n : Byte) (s : State) : Result :=
  let s := mrPc (m1 s)
  endPlain ((iow (join s.cpu.a n) s.cpu.a s).upd fun c => { c with memptr := join c.a (n + 1) })

/-- `IOW(BC, v); MEMPTR <- lo16(BC + 1)` (rules R424, R425). -/
def outC (v : Byte) (s : State) : State :=
  (iow s.cpu.bc v s).upd fun c => { c with memptr := c.bc + 1 }

/-- Rule R424. -/
def execOutCR (r : Reg8) (s : State) : Result := endPlain (outC (s.cpu.getR r) (m1 (m1 s)))

/-- Rule R425: the NMOS part outputs 0x00 (92_eei_decisions.md D27). -/
def execOutC0 (s : State) : Result := endPlain (outC 0x00 (m1 (m1 s)))

/-! ### CPU control -/

/-- Rule R428. -/
def execNop (s : State) : Result := endPlain (m1 s)

/-- Rule R430: PC stays at the HALT, so the next step executes the byte there again. -/
def execHalt (s : State) : Result :=
  let pc := s.cpu.pc
  endPlain ((m1 s).upd fun c => { c with halt := true, pc := pc })

/-- Rule R431. -/
def execDi (s : State) : Result := endPlain ((m1 s).upd fun c => { c with iff1 := false, iff2 := false })

/-- Rule R432. -/
def execEi (s : State) : Result := endShadow ((m1 s).upd fun c => { c with iff1 := true, iff2 := true })

/-- Rule R434. -/
def execIm0 (_ : Fin 8) (s : State) : Result := endPlain ((m1 (m1 s)).upd fun c => { c with im := .im0 })
/-- Rule R435. -/
def execIm1 (_ : Fin 8) (s : State) : Result := endPlain ((m1 (m1 s)).upd fun c => { c with im := .im1 })
/-- Rule R436. -/
def execIm2 (_ : Fin 8) (s : State) : Result := endPlain ((m1 (m1 s)).upd fun c => { c with im := .im2 })

/-- Rule R437. -/
def execEdNop (_ : Byte) (s : State) : Result := endPlain (m1 (m1 s))

end Sys2Proof.Machine
end

