-- ==== Sys2Proof/Machine/Load8.lean ====
section
/-! DEFINITION. The 8-bit load instructions (40_load8.md). Each meaning issues the primitives of its rule's Cycles line
in order and ends by its Q line. -/

namespace Sys2Proof.Machine

/-- Rule R200. -/
def execLdRR (r r2 : Reg8) (s : State) : Result :=
  endPlain ((m1 s).upd fun c => c.setR r (c.getR r2))

/-- Rule R201. -/
def execLdRN (r : Reg8) (n : Byte) (s : State) : Result :=
  endPlain ((mrPc (m1 s)).upd fun c => c.setR r n)

/-- Rule R202. -/
def execLdRMhl (r : Reg8) (s : State) : Result :=
  let s := m1 s
  let v := s.byteAt s.cpu.hl
  endPlain ((mr s.cpu.hl s).upd fun c => c.setR r v)

/-- Rule R203. -/
def execLdMhlR (r : Reg8) (s : State) : Result :=
  let s := m1 s
  endPlain (mw s.cpu.hl (s.cpu.getR r) s)

/-- Rule R204. -/
def execLdMhlN (n : Byte) (s : State) : Result :=
  let s := mrPc (m1 s)
  endPlain (mw s.cpu.hl n s)

/-- `A <- MR(a)`, MEMPTR `a + 1` (rules R205 to R207). -/
def loadA (a : Word) (s : State) : State :=
  let v := s.byteAt a
  (mr a s).upd fun c => { c with a := v, memptr := a + 1 }

/-- `MW(a, A)`, MEMPTR `A : lo8(lo(a) + 1)` (rules R208 to R210). -/
def storeA (a : Word) (s : State) : State :=
  (mw a s.cpu.a s).upd fun c => { c with memptr := join c.a (loByte a + 1) }

/-- Rule R205. -/
def execLdAMbc (s : State) : Result :=
  let s := m1 s
  endPlain (loadA s.cpu.bc s)

/-- Rule R206. -/
def execLdAMde (s : State) : Result :=
  let s := m1 s
  endPlain (loadA s.cpu.de s)

/-- Rule R207. -/
def execLdAMnn (nn : Word) (s : State) : Result := endPlain (loadA nn (mrPc (mrPc (m1 s))))

/-- Rule R208. -/
def execLdMbcA (s : State) : Result :=
  let s := m1 s
  endPlain (storeA s.cpu.bc s)

/-- Rule R209. -/
def execLdMdeA (s : State) : Result :=
  let s := m1 s
  endPlain (storeA s.cpu.de s)

/-- Rule R210. -/
def execLdMnnA (nn : Word) (s : State) : Result := endPlain (storeA nn (mrPc (mrPc (m1 s))))

/-- Rule R211. -/
def execLdAI (s : State) : Result :=
  endFlags ((icIR 1 (m1 (m1 s))).upd fun c => { c with a := c.i, f := ldAIRFlags c.i c.iff2 c.f })

/-- Rule R212: R is the value after this instruction's two M1 increments. -/
def execLdAR (s : State) : Result :=
  endFlags ((icIR 1 (m1 (m1 s))).upd fun c => { c with a := c.r, f := ldAIRFlags c.r c.iff2 c.f })

/-- Rule R213. -/
def execLdIA (s : State) : Result :=
  endPlain ((icIR 1 (m1 (m1 s))).upd fun c => { c with i := c.a })

/-- Rule R214: all 8 bits of R, after the two fetch increments. -/
def execLdRA (s : State) : Result :=
  endPlain ((icIR 1 (m1 (m1 s))).upd fun c => { c with r := c.a })

end Sys2Proof.Machine
end

