-- ==== Sys2Proof/Machine/Dispatch.lean ====
section
/-! DEFINITION. exec: one arm per constructor of Instr, each one call of the instruction's meaning. -/

namespace Sys2Proof.Machine

def exec (i : Instr) (s : State) : Host.Outcome State Fault Refusal :=
  match i with
  -- 8-bit loads (40_load8.md)
  | .ldRR r r2 => Sys2Proof.Machine.execLdRR r r2 s
  | .ldRN r n => Sys2Proof.Machine.execLdRN r n s
  | .ldRMhl r => Sys2Proof.Machine.execLdRMhl r s
  | .ldMhlR r => Sys2Proof.Machine.execLdMhlR r s
  | .ldMhlN n => Sys2Proof.Machine.execLdMhlN n s
  | .ldAMbc => Sys2Proof.Machine.execLdAMbc s
  | .ldAMde => Sys2Proof.Machine.execLdAMde s
  | .ldAMnn nn => Sys2Proof.Machine.execLdAMnn nn s
  | .ldMbcA => Sys2Proof.Machine.execLdMbcA s
  | .ldMdeA => Sys2Proof.Machine.execLdMdeA s
  | .ldMnnA nn => Sys2Proof.Machine.execLdMnnA nn s
  | .ldAI => Sys2Proof.Machine.execLdAI s
  | .ldAR => Sys2Proof.Machine.execLdAR s
  | .ldIA => Sys2Proof.Machine.execLdIA s
  | .ldRA => Sys2Proof.Machine.execLdRA s
  -- 16-bit loads, stack and exchange (41_load16_exchange.md)
  | .ldRpNn rr nn => Sys2Proof.Machine.execLdRpNn rr nn s
  | .ldHlMnn nn => Sys2Proof.Machine.execLdHlMnn nn s
  | .ldMnnHl nn => Sys2Proof.Machine.execLdMnnHl nn s
  | .ldRpMnn rr nn => Sys2Proof.Machine.execLdRpMnn rr nn s
  | .ldMnnRp rr nn => Sys2Proof.Machine.execLdMnnRp rr nn s
  | .ldSpHl => Sys2Proof.Machine.execLdSpHl s
  | .pushQq qq => Sys2Proof.Machine.execPushQq qq s
  | .popQq qq => Sys2Proof.Machine.execPopQq qq s
  | .exDeHl => Sys2Proof.Machine.execExDeHl s
  | .exMspHl => Sys2Proof.Machine.execExMspHl s
  | .exAfAf => Sys2Proof.Machine.execExAfAf s
  | .exx => Sys2Proof.Machine.execExx s
  -- 8-bit arithmetic and logic (42_alu8.md)
  | .addAR r => Sys2Proof.Machine.execAddAR r s
  | .adcAR r => Sys2Proof.Machine.execAdcAR r s
  | .subR r => Sys2Proof.Machine.execSubR r s
  | .sbcAR r => Sys2Proof.Machine.execSbcAR r s
  | .andR r => Sys2Proof.Machine.execAndR r s
  | .xorR r => Sys2Proof.Machine.execXorR r s
  | .orR r => Sys2Proof.Machine.execOrR r s
  | .cpR r => Sys2Proof.Machine.execCpR r s
  | .addAN n => Sys2Proof.Machine.execAddAN n s
  | .adcAN n => Sys2Proof.Machine.execAdcAN n s
  | .subN n => Sys2Proof.Machine.execSubN n s
  | .sbcAN n => Sys2Proof.Machine.execSbcAN n s
  | .andN n => Sys2Proof.Machine.execAndN n s
  | .xorN n => Sys2Proof.Machine.execXorN n s
  | .orN n => Sys2Proof.Machine.execOrN n s
  | .cpN n => Sys2Proof.Machine.execCpN n s
  | .addAMhl => Sys2Proof.Machine.execAddAMhl s
  | .adcAMhl => Sys2Proof.Machine.execAdcAMhl s
  | .subMhl => Sys2Proof.Machine.execSubMhl s
  | .sbcAMhl => Sys2Proof.Machine.execSbcAMhl s
  | .andMhl => Sys2Proof.Machine.execAndMhl s
  | .xorMhl => Sys2Proof.Machine.execXorMhl s
  | .orMhl => Sys2Proof.Machine.execOrMhl s
  | .cpMhl => Sys2Proof.Machine.execCpMhl s
  | .incR r => Sys2Proof.Machine.execIncR r s
  | .incMhl => Sys2Proof.Machine.execIncMhl s
  | .decR r => Sys2Proof.Machine.execDecR r s
  | .decMhl => Sys2Proof.Machine.execDecMhl s
  | .daa => Sys2Proof.Machine.execDaa s
  | .cpl => Sys2Proof.Machine.execCpl s
  | .neg y => Sys2Proof.Machine.execNeg y s
  | .scf => Sys2Proof.Machine.execScf s
  | .ccf => Sys2Proof.Machine.execCcf s
  -- 16-bit arithmetic (43_alu16.md)
  | .addHlRp rr => Sys2Proof.Machine.execAddHlRp rr s
  | .adcHlRp rr => Sys2Proof.Machine.execAdcHlRp rr s
  | .sbcHlRp rr => Sys2Proof.Machine.execSbcHlRp rr s
  | .incRp rr => Sys2Proof.Machine.execIncRp rr s
  | .decRp rr => Sys2Proof.Machine.execDecRp rr s
  -- rotates, shifts and bit operations (44_rotate_bit.md)
  | .rlca => Sys2Proof.Machine.execRlca s
  | .rrca => Sys2Proof.Machine.execRrca s
  | .rla => Sys2Proof.Machine.execRla s
  | .rra => Sys2Proof.Machine.execRra s
  | .rlcR r => Sys2Proof.Machine.execRlcR r s
  | .rrcR r => Sys2Proof.Machine.execRrcR r s
  | .rlR r => Sys2Proof.Machine.execRlR r s
  | .rrR r => Sys2Proof.Machine.execRrR r s
  | .slaR r => Sys2Proof.Machine.execSlaR r s
  | .sraR r => Sys2Proof.Machine.execSraR r s
  | .sllR r => Sys2Proof.Machine.execSllR r s
  | .srlR r => Sys2Proof.Machine.execSrlR r s
  | .rlcMhl => Sys2Proof.Machine.execRlcMhl s
  | .rrcMhl => Sys2Proof.Machine.execRrcMhl s
  | .rlMhl => Sys2Proof.Machine.execRlMhl s
  | .rrMhl => Sys2Proof.Machine.execRrMhl s
  | .slaMhl => Sys2Proof.Machine.execSlaMhl s
  | .sraMhl => Sys2Proof.Machine.execSraMhl s
  | .sllMhl => Sys2Proof.Machine.execSllMhl s
  | .srlMhl => Sys2Proof.Machine.execSrlMhl s
  | .bitR b r => Sys2Proof.Machine.execBitR b r s
  | .bitMhl b => Sys2Proof.Machine.execBitMhl b s
  | .resR b r => Sys2Proof.Machine.execResR b r s
  | .resMhl b => Sys2Proof.Machine.execResMhl b s
  | .setR b r => Sys2Proof.Machine.execSetR b r s
  | .setMhl b => Sys2Proof.Machine.execSetMhl b s
  | .rld => Sys2Proof.Machine.execRld s
  | .rrd => Sys2Proof.Machine.execRrd s
  -- jumps, calls, returns and restarts (45_control.md)
  | .jp nn => Sys2Proof.Machine.execJp nn s
  | .jpCc cc nn => Sys2Proof.Machine.execJpCc cc nn s
  | .jr e => Sys2Proof.Machine.execJr e s
  | .jrCc cc e => Sys2Proof.Machine.execJrCc cc e s
  | .djnz e => Sys2Proof.Machine.execDjnz e s
  | .jpHl => Sys2Proof.Machine.execJpHl s
  | .call nn => Sys2Proof.Machine.execCall nn s
  | .callCc cc nn => Sys2Proof.Machine.execCallCc cc nn s
  | .ret => Sys2Proof.Machine.execRet s
  | .retCc cc => Sys2Proof.Machine.execRetCc cc s
  | .retn y => Sys2Proof.Machine.execRetn y s
  | .reti => Sys2Proof.Machine.execReti s
  | .rst y => Sys2Proof.Machine.execRst y s
  -- block transfer, search and I/O (46_block.md)
  | .ldi => Sys2Proof.Machine.execLdi s
  | .ldd => Sys2Proof.Machine.execLdd s
  | .ldir => Sys2Proof.Machine.execLdir s
  | .lddr => Sys2Proof.Machine.execLddr s
  | .cpi => Sys2Proof.Machine.execCpi s
  | .cpd => Sys2Proof.Machine.execCpd s
  | .cpir => Sys2Proof.Machine.execCpir s
  | .cpdr => Sys2Proof.Machine.execCpdr s
  | .ini => Sys2Proof.Machine.execIni s
  | .ind => Sys2Proof.Machine.execInd s
  | .inir => Sys2Proof.Machine.execInir s
  | .indr => Sys2Proof.Machine.execIndr s
  | .outi => Sys2Proof.Machine.execOuti s
  | .outd => Sys2Proof.Machine.execOutd s
  | .otir => Sys2Proof.Machine.execOtir s
  | .otdr => Sys2Proof.Machine.execOtdr s
  -- I/O and CPU control (47_io_cpu_control.md)
  | .inAMn n => Sys2Proof.Machine.execInAMn n s
  | .inRC r => Sys2Proof.Machine.execInRC r s
  | .inFC => Sys2Proof.Machine.execInFC s
  | .outMnA n => Sys2Proof.Machine.execOutMnA n s
  | .outCR r => Sys2Proof.Machine.execOutCR r s
  | .outC0 => Sys2Proof.Machine.execOutC0 s
  | .nop => Sys2Proof.Machine.execNop s
  | .halt => Sys2Proof.Machine.execHalt s
  | .di => Sys2Proof.Machine.execDi s
  | .ei => Sys2Proof.Machine.execEi s
  | .im0 y => Sys2Proof.Machine.execIm0 y s
  | .im1 y => Sys2Proof.Machine.execIm1 y s
  | .im2 y => Sys2Proof.Machine.execIm2 y s
  | .edNop o => Sys2Proof.Machine.execEdNop o s
  -- index-register instructions (48_index.md)
  | .ldXyNn x nn => Sys2Proof.Machine.execLdXyNn x nn s
  | .ldXyMnn x nn => Sys2Proof.Machine.execLdXyMnn x nn s
  | .ldMnnXy x nn => Sys2Proof.Machine.execLdMnnXy x nn s
  | .addXyRp x rr => Sys2Proof.Machine.execAddXyRp x rr s
  | .incXy x => Sys2Proof.Machine.execIncXy x s
  | .decXy x => Sys2Proof.Machine.execDecXy x s
  | .incHalf x k => Sys2Proof.Machine.execIncHalf x k s
  | .decHalf x k => Sys2Proof.Machine.execDecHalf x k s
  | .ldHalfN x k n => Sys2Proof.Machine.execLdHalfN x k n s
  | .incMxy x d => Sys2Proof.Machine.execIncMxy x d s
  | .decMxy x d => Sys2Proof.Machine.execDecMxy x d s
  | .ldMxyN x d n => Sys2Proof.Machine.execLdMxyN x d n s
  | .ldRRHalf x r r2 => Sys2Proof.Machine.execLdRRHalf x r r2 s
  | .ldRMxy x r d => Sys2Proof.Machine.execLdRMxy x r d s
  | .ldMxyR x r d => Sys2Proof.Machine.execLdMxyR x r d s
  | .pushXy x => Sys2Proof.Machine.execPushXy x s
  | .popXy x => Sys2Proof.Machine.execPopXy x s
  | .exMspXy x => Sys2Proof.Machine.execExMspXy x s
  | .jpXy x => Sys2Proof.Machine.execJpXy x s
  | .ldSpXy x => Sys2Proof.Machine.execLdSpXy x s
  | .addAHalf x k => Sys2Proof.Machine.execAddAHalf x k s
  | .adcAHalf x k => Sys2Proof.Machine.execAdcAHalf x k s
  | .subHalf x k => Sys2Proof.Machine.execSubHalf x k s
  | .sbcAHalf x k => Sys2Proof.Machine.execSbcAHalf x k s
  | .andHalf x k => Sys2Proof.Machine.execAndHalf x k s
  | .xorHalf x k => Sys2Proof.Machine.execXorHalf x k s
  | .orHalf x k => Sys2Proof.Machine.execOrHalf x k s
  | .cpHalf x k => Sys2Proof.Machine.execCpHalf x k s
  | .addAMxy x d => Sys2Proof.Machine.execAddAMxy x d s
  | .adcAMxy x d => Sys2Proof.Machine.execAdcAMxy x d s
  | .subMxy x d => Sys2Proof.Machine.execSubMxy x d s
  | .sbcAMxy x d => Sys2Proof.Machine.execSbcAMxy x d s
  | .andMxy x d => Sys2Proof.Machine.execAndMxy x d s
  | .xorMxy x d => Sys2Proof.Machine.execXorMxy x d s
  | .orMxy x d => Sys2Proof.Machine.execOrMxy x d s
  | .cpMxy x d => Sys2Proof.Machine.execCpMxy x d s
  | .rlcMxy x d cp => Sys2Proof.Machine.execRlcMxy x d cp s
  | .rrcMxy x d cp => Sys2Proof.Machine.execRrcMxy x d cp s
  | .rlMxy x d cp => Sys2Proof.Machine.execRlMxy x d cp s
  | .rrMxy x d cp => Sys2Proof.Machine.execRrMxy x d cp s
  | .slaMxy x d cp => Sys2Proof.Machine.execSlaMxy x d cp s
  | .sraMxy x d cp => Sys2Proof.Machine.execSraMxy x d cp s
  | .sllMxy x d cp => Sys2Proof.Machine.execSllMxy x d cp s
  | .srlMxy x d cp => Sys2Proof.Machine.execSrlMxy x d cp s
  | .bitMxy x d b z => Sys2Proof.Machine.execBitMxy x d b z s
  | .resMxy x d b cp => Sys2Proof.Machine.execResMxy x d b cp s
  | .setMxy x d b cp => Sys2Proof.Machine.execSetMxy x d b cp s
  | .lonePrefix x q => Sys2Proof.Machine.execLonePrefix x q s

end Sys2Proof.Machine
end

