-- ==== Sys2Proof/Machine/Step.lean ====
section
/-! DEFINITION. One step of the machine (60_exceptions.md rule R523). -/

namespace Sys2Proof.Machine

/-- `step()`: a faulted state has no further step (10_state.md rule R58); otherwise the instruction at PC is decoded
and executed. The meaning issues the fetches of its Cycles line itself; they read the bytes decoded here, since no
instruction stores before its last fetch (log entry 7). -/
def step (s : State) : Host.Outcome State Fault Refusal :=
  match s.fault with
  | some r => .fault r
  | none   => exec (fetchInstr s) s

/-- The state with an instruction of spec/opcode_table.json where `step` fetches next: its bytes, and zeros up to four
bytes, at PC and behind it modulo 65536, put there past the read-only map, as the host's `load` does (20_memory.md
rule R98; log entry 10). -/
def State.withFetchWord (s : State) (nbits w : Nat) : State :=
  placeBytes s.cpu.pc [tableByte nbits w 0, tableByte nbits w 1, tableByte nbits w 2, tableByte nbits w 3] s

end Sys2Proof.Machine
end

