-- ==== Sys2Proof/Machine/HostCalls.lean ====
section
/-! DEFINITION. The host interface (60_exceptions.md rule R540). Every action happens between steps; an action on a
faulted state does nothing. Port input is the parameter `Config.busIn`. -/

namespace Sys2Proof.Machine

/-! ### Interrupt requests -/

/-- Whether a call of `interrupt()` is accepted: no fault, IFF1 = 1 and EI_SHADOW = 0 (rule R525). -/
def interruptAccepted (s : State) : Bool := s.fault.isNone && s.cpu.iff1 && !s.cpu.eiShadow

/-- `interrupt()`: the state after the call and whether it was accepted. A call that is not accepted changes nothing,
not even t. An accepted one may meet the overrun. -/
def interrupt (s : State) : Result × Bool :=
  if interruptAccepted s then (outcome (takeInterrupt s), true) else (outcome s, false)

/-- `nmi()`: always accepted where there is no fault (rule R530). -/
def nmi (s : State) : Result :=
  match s.fault with
  | some r => .fault r
  | none   => outcome (takeNmi s)

/-- `reset(hard)` (70_reset_and_hazards.md rules R551, R552): mem, ro, t and the trace are untouched. -/
def State.resetCpu (hard : Bool) (s : State) : State :=
  s.upd fun c => if hard then c.hardReset else c.softReset

/-! ### Register accessors (10_state.md rule R61; 92_eei_decisions.md D30): every register of rule R62 -/

/-- The 8-bit registers. -/
inductive HostReg8
  | a | f | b | c | d | e | h | l
  | aAlt | fAlt | bAlt | cAlt | dAlt | eAlt | hAlt | lAlt
  | i | r | q
  deriving DecidableEq, Repr

/-- The 16-bit registers. -/
inductive HostReg16
  | ix | iy | sp | pc | memptr
  deriving DecidableEq, Repr

/-- The one-bit registers. -/
inductive HostBit
  | iff1 | iff2 | halt | eiShadow
  deriving DecidableEq, Repr

/-- Reads an 8-bit register. -/
def Cpu.hostRead8 (x : HostReg8) (c : Cpu) : Byte :=
  match x with
  | .a => c.a
  | .f => c.f
  | .b => c.b
  | .c => c.c
  | .d => c.d
  | .e => c.e
  | .h => c.h
  | .l => c.l
  | .aAlt => c.aAlt
  | .fAlt => c.fAlt
  | .bAlt => c.bAlt
  | .cAlt => c.cAlt
  | .dAlt => c.dAlt
  | .eAlt => c.eAlt
  | .hAlt => c.hAlt
  | .lAlt => c.lAlt
  | .i => c.i
  | .r => c.r
  | .q => c.q

/-- Writes an 8-bit register. -/
def Cpu.hostWrite8 (x : HostReg8) (v : Byte) (c : Cpu) : Cpu :=
  match x with
  | .a => { c with a := v }
  | .f => { c with f := v }
  | .b => { c with b := v }
  | .c => { c with c := v }
  | .d => { c with d := v }
  | .e => { c with e := v }
  | .h => { c with h := v }
  | .l => { c with l := v }
  | .aAlt => { c with aAlt := v }
  | .fAlt => { c with fAlt := v }
  | .bAlt => { c with bAlt := v }
  | .cAlt => { c with cAlt := v }
  | .dAlt => { c with dAlt := v }
  | .eAlt => { c with eAlt := v }
  | .hAlt => { c with hAlt := v }
  | .lAlt => { c with lAlt := v }
  | .i => { c with i := v }
  | .r => { c with r := v }
  | .q => { c with q := v }

/-- Reads a 16-bit register. -/
def Cpu.hostRead16 (x : HostReg16) (c : Cpu) : Word :=
  match x with
  | .ix => c.ix
  | .iy => c.iy
  | .sp => c.sp
  | .pc => c.pc
  | .memptr => c.memptr

/-- Writes a 16-bit register. -/
def Cpu.hostWrite16 (x : HostReg16) (w : Word) (c : Cpu) : Cpu :=
  match x with
  | .ix => { c with ix := w }
  | .iy => { c with iy := w }
  | .sp => { c with sp := w }
  | .pc => { c with pc := w }
  | .memptr => { c with memptr := w }

/-- Reads a one-bit register. -/
def Cpu.hostReadBit (x : HostBit) (c : Cpu) : Bool :=
  match x with
  | .iff1 => c.iff1
  | .iff2 => c.iff2
  | .halt => c.halt
  | .eiShadow => c.eiShadow

/-- Writes a one-bit register. -/
def Cpu.hostWriteBit (x : HostBit) (b : Bool) (c : Cpu) : Cpu :=
  match x with
  | .iff1 => { c with iff1 := b }
  | .iff2 => { c with iff2 := b }
  | .halt => { c with halt := b }
  | .eiShadow => { c with eiShadow := b }

/-! ### The actions of rule R540 -/

/-- One host action. -/
inductive HostCall
  | reset (hard : Bool)
  | step
  | interrupt
  | nmi
  | write8 (x : HostReg8) (v : Byte)
  | write16 (x : HostReg16) (w : Word)
  | writeBit (x : HostBit) (b : Bool)
  | writeIm (m : IntMode)
  | load (addr : Word) (bytes : List Byte)
  | clear
  | setReadOnly (a : Word) (b : Bool)
  | setTime (t : Nat)
  deriving DecidableEq, Repr

/-- The state a call leaves: a fault sets `fault`. What the other fields of a faulted state hold is not specified
(rule R520); this function leaves what they were before the call (log entry 5). -/
def settle (s : State) : Result → State
  | .next u    => u
  | .fault r   => { s with fault := some r }
  | .refused _ => s

/-- One host action on a state with no fault. -/
def hostAct (call : HostCall) (s : State) : State :=
  match call with
  | .reset hard      => s.resetCpu hard
  | .step            => settle s (step s)
  | .interrupt       => settle s (interrupt s).1
  | .nmi             => settle s (nmi s)
  | .write8 x v      => s.upd fun c => c.hostWrite8 x v
  | .write16 x w     => s.upd fun c => c.hostWrite16 x w
  | .writeBit x b    => s.upd fun c => c.hostWriteBit x b
  | .writeIm m       => s.upd fun c => { c with im := m }
  | .load addr bytes => loadBytes addr.toNat bytes s
  | .clear           => clearRam s
  | .setReadOnly a b => { s with roFlips := setReadOnlyIn s.roFlips a b }
  | .setTime t       => { s with t := t }

/-- One host action. On a faulted state it does nothing (92_eei_decisions.md D25). -/
def hostStep (call : HostCall) (s : State) : State :=
  match s.fault with
  | some _ => s
  | none   => hostAct call s

/-- A state the machine may have when it is created (70_reset_and_hazards.md rule R550, `POWER_ON_STATE`): any
registers, any bytes, any t; the creation map, no fault, an empty trace. -/
def IsPowerOn (s : State) : Prop := s.mem.wf ∧ s.roFlips = [] ∧ s.fault = none ∧ s.trace = []

end Sys2Proof.Machine
end

