-- ==== Sys2Proof/Machine/Cycles.lean ====
section
/-! DEFINITION. The Cycles lines of the instruction rules as data (00_scope.md rule R12), what playing such a line does
to the counter and the trace, and the registers after a fetch. The statements are written in these terms; the machine
itself does not use them. -/

namespace Sys2Proof.Machine

/-! ### Bus schedules -/

/-- One primitive of a Cycles line (rule R12). -/
inductive Act
  | m1 (a : Word)             -- opcode fetch
  | mr (a : Word)             -- memory read
  | mw (a : Word) (v : Byte)  -- memory write
  | ic (a : Word) (n : Nat)   -- n internal cycles charged to a
  | ior (p : Word)            -- port read
  | iow (p : Word) (v : Byte) -- port write
  deriving DecidableEq, Repr

/-- What a schedule acts on beside memory: the counter and the trace. -/
structure Bus where
  time  : Nat
  trace : List BusEvent
  deriving DecidableEq, Repr

/-- The counter and trace of a state. -/
def State.bus (s : State) : Bus := ⟨s.t, s.trace⟩

/-- `n` t-states, preceded by the table's delay where the table is read; none where it is read at t ≥ 70930
(20_memory.md rules R87, R88). -/
def Bus.tick (table : Bool) (n : Nat) (b : Bus) : Option Bus :=
  if table then
    if b.time < Config.contentionTableLen then some { b with time := b.time + contentionDelay b.time + n } else none
  else some { b with time := b.time + n }

/-- `n` cycles of one t-state each, each reading the table at the time the one before it left (rule R88). -/
def Bus.ticks (table : Bool) : Nat → Bus → Option Bus
  | 0, b => some b
  | n + 1, b => (b.tick table 1).bind (Bus.ticks table n)

/-- The four cases of `ioContend` (rule R97). -/
def Bus.portCycle (p : Word) (b : Bus) : Option Bus :=
  match p.getLsbD 0, isContended p with
  | false, high => (b.tick high 1).bind (Bus.tick true 3)
  | true, true  => b.ticks true 4
  | true, false => b.tick false 4

/-- An event appended at the present time (rule R107). -/
def Bus.record (k : BusKind) (a : Word) (v : Byte) (b : Bus) : Bus :=
  { b with trace := b.trace ++ [⟨b.time, k, a, v⟩] }

/-- One primitive; `rd` gives the bytes of memory (rules R89 to R96). -/
def Act.play (rd : Word → Byte) (x : Act) (b : Bus) : Option Bus :=
  match x with
  | .m1 a    => (b.tick (isContended a) 4).map (Bus.record .m1 a (rd a))
  | .mr a    => (b.tick (isContended a) 3).map (Bus.record .mr a (rd a))
  | .mw a v  => (b.tick (isContended a) 3).map (Bus.record .mw a v)
  | .ic a n  => b.ticks (isContended a) n
  | .ior p   => (b.portCycle p).map (Bus.record .ior p (Config.busIn p b.time b.trace))
  | .iow p v => (b.portCycle p).map (Bus.record .iow p v)

/-- A schedule; `none` where it meets the overrun. -/
def play (rd : Word → Byte) : List Act → Bus → Option Bus
  | [], b => some b
  | x :: rest, b => (x.play rd b).bind (play rd rest)

/-- The schedule played from a state. -/
def State.plays (s : State) (acts : List Act) : Option Bus := play s.byteAt acts s.bus

/-- The byte a port read returns behind a schedule (rule R95). The 0 where the schedule meets the overrun stands in no
next state: the instruction then ends in the fault. -/
def State.portByte (s : State) (acts : List Act) (p : Word) : Byte :=
  match s.plays acts with
  | some b => Config.busIn p b.time b.trace
  | none   => 0

/-- The memory writes of a schedule, in order. -/
def stores (acts : List Act) : List (Word × Byte) :=
  acts.filterMap fun x =>
    match x with
    | .mw a v => some (a, v)
    | _       => none

/-- The opcode fetches of a schedule. -/
def opcodeFetches (acts : List Act) : Nat :=
  acts.countP fun x =>
    match x with
    | .m1 _ => true
    | _     => false

/-- Memory with one byte stored where it is writable (rule R81). -/
def State.storeIn (s : State) (m : Memory) (w : Word × Byte) : Memory :=
  if s.isReadOnly w.1 then m else m.write w.1.toNat w.2

/-- Memory after the writes of a schedule. -/
def State.memAfter (s : State) (acts : List Act) : Memory := (stores acts).foldl s.storeIn s.mem

/-! ### The registers after a fetch -/

/-- R after k opcode fetches: bit 7 kept, k added to the low 7 bits modulo 128 (10_state.md rule R48). -/
def refreshed (k : Nat) (r : Byte) : Byte := (r &&& 0x80) ||| BitVec.ofNat 8 ((r.toNat % 128 + k) % 128)

/-- The registers behind an instruction of `len` bytes, `k` of them opcode fetches (rules R44, R48). -/
def Cpu.fetched (k len : Nat) (c : Cpu) : Cpu := { c with pc := c.pc + BitVec.ofNat 16 len, r := refreshed k c.r }

/-- `IR` behind k opcode fetches (00_scope.md rule R13). -/
def Cpu.irAfter (k : Nat) (c : Cpu) : Word := join c.i (refreshed k c.r)

/-- The end of a step whose Q line says 0 (rules R50, R54). -/
def Cpu.quiet (c : Cpu) : Cpu := { c with q := 0, eiShadow := false }

/-- The end of a step that writes `f` to F and whose Q line says F (rules R50, R54). -/
def Cpu.flagged (f : Byte) (c : Cpu) : Cpu := { c with f := f, q := f, eiShadow := false }

/-! ### The Cycles line of every instruction -/

/-- `MR(a) IC(a,1) MW(a, res)`. -/
def modifyActs (a : Word) (res : Byte) : List Act := [.mr a, .ic a 1, .mw a res]

/-- `MW(SP-1, hi(w)) MW(SP-2, lo(w))`. -/
def pushActs (c : Cpu) (w : Word) : List Act := [.mw (c.sp - 1) (hiByte w), .mw (c.sp - 2) (loByte w)]

/-- `MR(SP) MR(SP+1)`. -/
def popActs (c : Cpu) : List Act := [.mr c.sp, .mr (c.sp + 1)]

/-- `MR(SP) MR(SP+1) IC(SP+1,1) MW(SP+1, hi(w)) MW(SP, lo(w)) IC(SP,2)`. -/
def swapActs (c : Cpu) (w : Word) : List Act :=
  popActs c ++ [.ic (c.sp + 1) 1, .mw (c.sp + 1) (hiByte w), .mw c.sp (loByte w), .ic c.sp 2]

/-- The Cycles line of the (XY+d) forms up to the displacement's five cycles. -/
def fetchDActs (pc : Word) : List Act := [.m1 pc, .m1 (pc + 1), .mr (pc + 2), .ic (pc + 2) 5]

/-- The Cycles line of the DDCB/FDCB forms up to the opcode's two cycles (48_index.md rule R450). -/
def fetchCbActs (pc : Word) : List Act := [.m1 pc, .m1 (pc + 1), .mr (pc + 2), .mr (pc + 3), .ic (pc + 3) 2]

/-- The five cycles of a looping iteration (46_block.md rule R390). -/
def loopActs (looping : Bool) (a : Word) : List Act := if looping then [.ic a 5] else []

/-- The cycles of a taken branch only. -/
def takenActs (taken : Bool) (acts : List Act) : List Act := if taken then acts else []

/-- The port read of INI, IND and their repeats: `M1(pc) M1(pc+1) IC(IR,1)` stands before it. -/
def inPrelude (c : Cpu) : List Act := [.m1 c.pc, .m1 (c.pc + 1), .ic (c.irAfter 2) 1]

/-- The byte INI, IND and their repeats read. -/
def inBlockByte (s : State) : Byte := s.portByte (inPrelude s.cpu) s.cpu.bc

/-- The Cycles line of an instruction at PC, with the byte each write carries. -/
def cycles (i : Instr) (s : State) : List Act :=
  let c := s.cpu
  let pc := c.pc
  let one : List Act := [.m1 pc]
  let two : List Act := [.m1 pc, .m1 (pc + 1)]
  let imm8 : List Act := [.m1 pc, .mr (pc + 1)]
  let imm16 : List Act := [.m1 pc, .mr (pc + 1), .mr (pc + 2)]
  let edImm16 : List Act := [.m1 pc, .m1 (pc + 1), .mr (pc + 2), .mr (pc + 3)]
  let cy := flagC c.f
  let atHl := s.byteAt c.hl
  let modify (res : Byte) : List Act := modifyActs c.hl res
  let modifyCb (x : XY) (d : Byte) (f : Byte → Byte) : List Act :=
    fetchCbActs pc ++ modifyActs (c.indexAddr x d) (f (s.byteAt (c.indexAddr x d)))
  let outPort : Word := join (c.b - 1) c.c
  match i with
  -- 40_load8.md
  | .ldRR _ _ => one
  | .ldRN _ _ => imm8
  | .ldRMhl _ => one ++ [.mr c.hl]
  | .ldMhlR r => one ++ [.mw c.hl (c.getR r)]
  | .ldMhlN n => imm8 ++ [.mw c.hl n]
  | .ldAMbc => one ++ [.mr c.bc]
  | .ldAMde => one ++ [.mr c.de]
  | .ldAMnn nn => imm16 ++ [.mr nn]
  | .ldMbcA => one ++ [.mw c.bc c.a]
  | .ldMdeA => one ++ [.mw c.de c.a]
  | .ldMnnA nn => imm16 ++ [.mw nn c.a]
  | .ldAI | .ldAR | .ldIA | .ldRA => two ++ [.ic (c.irAfter 2) 1]
  -- 41_load16_exchange.md
  | .ldRpNn _ _ => imm16
  | .ldHlMnn nn => imm16 ++ [.mr nn, .mr (nn + 1)]
  | .ldMnnHl nn => imm16 ++ [.mw nn c.l, .mw (nn + 1) c.h]
  | .ldRpMnn _ nn => edImm16 ++ [.mr nn, .mr (nn + 1)]
  | .ldMnnRp rr nn => edImm16 ++ [.mw nn (loByte (c.getRp rr)), .mw (nn + 1) (hiByte (c.getRp rr))]
  | .ldSpHl => one ++ [.ic (c.irAfter 1) 2]
  | .pushQq qq => one ++ [.ic (c.irAfter 1) 1] ++ pushActs c (c.getRp2 qq)
  | .popQq _ => one ++ popActs c
  | .exMspHl => one ++ swapActs c c.hl
  | .exDeHl | .exAfAf | .exx => one
  -- 42_alu8.md
  | .addAR _ | .adcAR _ | .subR _ | .sbcAR _ | .andR _ | .xorR _ | .orR _ | .cpR _ => one
  | .addAN _ | .adcAN _ | .subN _ | .sbcAN _ | .andN _ | .xorN _ | .orN _ | .cpN _ => imm8
  | .addAMhl | .adcAMhl | .subMhl | .sbcAMhl | .andMhl | .xorMhl | .orMhl | .cpMhl => one ++ [.mr c.hl]
  | .incR _ | .decR _ => one
  | .incMhl => one ++ modify (inc8 atHl c.f).1
  | .decMhl => one ++ modify (dec8 atHl c.f).1
  | .daa | .cpl | .scf | .ccf => one
  | .neg _ => two
  -- 43_alu16.md
  | .addHlRp _ => one ++ [.ic (c.irAfter 1) 7]
  | .adcHlRp _ | .sbcHlRp _ => two ++ [.ic (c.irAfter 2) 7]
  | .incRp _ | .decRp _ => one ++ [.ic (c.irAfter 1) 2]
  -- 44_rotate_bit.md
  | .rlca | .rrca | .rla | .rra => one
  | .rlcR _ | .rrcR _ | .rlR _ | .rrR _ | .slaR _ | .sraR _ | .sllR _ | .srlR _ => two
  | .rlcMhl => two ++ modify (rotRlc atHl).1
  | .rrcMhl => two ++ modify (rotRrc atHl).1
  | .rlMhl => two ++ modify (rotRl cy atHl).1
  | .rrMhl => two ++ modify (rotRr cy atHl).1
  | .slaMhl => two ++ modify (rotSla atHl).1
  | .sraMhl => two ++ modify (rotSra atHl).1
  | .sllMhl => two ++ modify (rotSll atHl).1
  | .srlMhl => two ++ modify (rotSrl atHl).1
  | .bitR _ _ | .resR _ _ | .setR _ _ => two
  | .bitMhl _ => two ++ [.mr c.hl, .ic c.hl 1]
  | .resMhl b => two ++ modify (resBit b atHl)
  | .setMhl b => two ++ modify (setBit b atHl)
  | .rld => two ++ [.mr c.hl, .ic c.hl 4, .mw c.hl (rldBytes c.a atHl).1]
  | .rrd => two ++ [.mr c.hl, .ic c.hl 4, .mw c.hl (rrdBytes c.a atHl).1]
  -- 45_control.md
  | .jp _ | .jpCc _ _ => imm16
  | .jr _ => imm8 ++ [.ic (pc + 1) 5]
  | .jrCc cc _ => imm8 ++ takenActs (jrCondHolds cc c.f) [.ic (pc + 1) 5]
  | .djnz _ => [.m1 pc, .ic (c.irAfter 1) 1, .mr (pc + 1)] ++ takenActs (c.b - 1 != 0) [.ic (pc + 1) 5]
  | .jpHl => one
  | .call _ => imm16 ++ [.ic (pc + 2) 1] ++ pushActs c (pc + 3)
  | .callCc cc _ => imm16 ++ takenActs (condHolds cc c.f) ([.ic (pc + 2) 1] ++ pushActs c (pc + 3))
  | .ret => one ++ popActs c
  | .retCc cc => one ++ [.ic (c.irAfter 1) 1] ++ takenActs (condHolds cc c.f) (popActs c)
  | .retn _ | .reti => two ++ popActs c
  | .rst _ => one ++ [.ic (c.irAfter 1) 1] ++ pushActs c (pc + 1)
  -- 46_block.md
  | .ldi | .ldd => two ++ [.mr c.hl, .mw c.de atHl, .ic c.de 2]
  | .ldir | .lddr => two ++ [.mr c.hl, .mw c.de atHl, .ic c.de 2] ++ loopActs (c.bc - 1 != 0) c.de
  | .cpi | .cpd => two ++ [.mr c.hl, .ic c.hl 5]
  | .cpir | .cpdr => two ++ [.mr c.hl, .ic c.hl 5] ++ loopActs (c.bc - 1 != 0 && c.a != atHl) c.hl
  | .ini | .ind => inPrelude c ++ [.ior c.bc, .mw c.hl (inBlockByte s)]
  | .inir | .indr => inPrelude c ++ [.ior c.bc, .mw c.hl (inBlockByte s)] ++ loopActs (c.b - 1 != 0) c.hl
  | .outi | .outd => inPrelude c ++ [.mr c.hl, .iow outPort atHl]
  | .otir | .otdr => inPrelude c ++ [.mr c.hl, .iow outPort atHl] ++ loopActs (c.b - 1 != 0) outPort
  -- 47_io_cpu_control.md
  | .inAMn n => imm8 ++ [.ior (join c.a n)]
  | .inRC _ | .inFC => two ++ [.ior c.bc]
  | .outMnA n => imm8 ++ [.iow (join c.a n) c.a]
  | .outCR r => two ++ [.iow c.bc (c.getR r)]
  | .outC0 => two ++ [.iow c.bc 0x00]
  | .nop | .halt | .di | .ei => one
  | .im0 _ | .im1 _ | .im2 _ | .edNop _ => two
  -- 48_index.md
  | .ldXyNn _ _ => edImm16
  | .ldXyMnn _ nn => edImm16 ++ [.mr nn, .mr (nn + 1)]
  | .ldMnnXy x nn => edImm16 ++ [.mw nn (loByte (c.getXy x)), .mw (nn + 1) (hiByte (c.getXy x))]
  | .addXyRp _ _ => two ++ [.ic (c.irAfter 2) 7]
  | .incXy _ | .decXy _ | .ldSpXy _ => two ++ [.ic (c.irAfter 2) 2]
  | .pushXy x => two ++ [.ic (c.irAfter 2) 1] ++ pushActs c (c.getXy x)
  | .popXy _ => two ++ popActs c
  | .exMspXy x => two ++ swapActs c (c.getXy x)
  | .jpXy _ => two
  | .incHalf _ _ | .decHalf _ _ | .ldRRHalf _ _ _ => two
  | .ldHalfN _ _ _ => two ++ [.mr (pc + 2)]
  | .incMxy x d =>
    fetchDActs pc ++ modifyActs (c.indexAddr x d) (inc8 (s.byteAt (c.indexAddr x d)) c.f).1
  | .decMxy x d =>
    fetchDActs pc ++ modifyActs (c.indexAddr x d) (dec8 (s.byteAt (c.indexAddr x d)) c.f).1
  | .ldMxyN x d n => fetchCbActs pc ++ [.mw (c.indexAddr x d) n]
  | .ldRMxy x _ d => fetchDActs pc ++ [.mr (c.indexAddr x d)]
  | .ldMxyR x r d => fetchDActs pc ++ [.mw (c.indexAddr x d) (c.getR r)]
  | .addAHalf _ _ | .adcAHalf _ _ | .subHalf _ _ | .sbcAHalf _ _ => two
  | .andHalf _ _ | .xorHalf _ _ | .orHalf _ _ | .cpHalf _ _ => two
  | .addAMxy x d | .adcAMxy x d | .subMxy x d | .sbcAMxy x d => fetchDActs pc ++ [.mr (c.indexAddr x d)]
  | .andMxy x d | .xorMxy x d | .orMxy x d | .cpMxy x d => fetchDActs pc ++ [.mr (c.indexAddr x d)]
  | .rlcMxy x d _ => modifyCb x d fun v => (rotRlc v).1
  | .rrcMxy x d _ => modifyCb x d fun v => (rotRrc v).1
  | .rlMxy x d _ => modifyCb x d fun v => (rotRl cy v).1
  | .rrMxy x d _ => modifyCb x d fun v => (rotRr cy v).1
  | .slaMxy x d _ => modifyCb x d fun v => (rotSla v).1
  | .sraMxy x d _ => modifyCb x d fun v => (rotSra v).1
  | .sllMxy x d _ => modifyCb x d fun v => (rotSll v).1
  | .srlMxy x d _ => modifyCb x d fun v => (rotSrl v).1
  | .bitMxy x d _ _ => fetchCbActs pc ++ [.mr (c.indexAddr x d), .ic (c.indexAddr x d) 1]
  | .resMxy x d b _ => modifyCb x d (resBit b)
  | .setMxy x d b _ => modifyCb x d (setBit b)
  | .lonePrefix _ _ => one

/-- The addresses an instruction stores to. -/
def storeAddrs (i : Instr) (s : State) : List Word := (stores (cycles i s)).map Prod.fst

/-- The instructions whose Q line says F (10_state.md rule R50; 92_eei_decisions.md D4). -/
def writesFlags : Instr → Bool
  | .ldAI | .ldAR => true
  | .addAR _ | .adcAR _ | .subR _ | .sbcAR _ | .andR _ | .xorR _ | .orR _ | .cpR _ => true
  | .addAN _ | .adcAN _ | .subN _ | .sbcAN _ | .andN _ | .xorN _ | .orN _ | .cpN _ => true
  | .addAMhl | .adcAMhl | .subMhl | .sbcAMhl | .andMhl | .xorMhl | .orMhl | .cpMhl => true
  | .incR _ | .incMhl | .decR _ | .decMhl | .daa | .cpl | .neg _ | .scf | .ccf => true
  | .addHlRp _ | .adcHlRp _ | .sbcHlRp _ => true
  | .rlca | .rrca | .rla | .rra => true
  | .rlcR _ | .rrcR _ | .rlR _ | .rrR _ | .slaR _ | .sraR _ | .sllR _ | .srlR _ => true
  | .rlcMhl | .rrcMhl | .rlMhl | .rrMhl | .slaMhl | .sraMhl | .sllMhl | .srlMhl => true
  | .bitR _ _ | .bitMhl _ | .rld | .rrd => true
  | .ldi | .ldd | .ldir | .lddr | .cpi | .cpd | .cpir | .cpdr => true
  | .ini | .ind | .inir | .indr | .outi | .outd | .otir | .otdr => true
  | .inRC _ | .inFC => true
  | .addXyRp _ _ | .incHalf _ _ | .decHalf _ _ | .incMxy _ _ | .decMxy _ _ => true
  | .addAHalf _ _ | .adcAHalf _ _ | .subHalf _ _ | .sbcAHalf _ _ => true
  | .andHalf _ _ | .xorHalf _ _ | .orHalf _ _ | .cpHalf _ _ => true
  | .addAMxy _ _ | .adcAMxy _ _ | .subMxy _ _ | .sbcAMxy _ _ => true
  | .andMxy _ _ | .xorMxy _ _ | .orMxy _ _ | .cpMxy _ _ => true
  | .rlcMxy _ _ _ | .rrcMxy _ _ _ | .rlMxy _ _ _ | .rrMxy _ _ _ => true
  | .slaMxy _ _ _ | .sraMxy _ _ _ | .sllMxy _ _ _ | .srlMxy _ _ _ => true
  | .bitMxy _ _ _ _ => true
  | _ => false

end Sys2Proof.Machine
end

