-- ==== Sys2Proof/Safety.lean ====
section
/-! DEFINITION. The terms of the statements about whole states: what an instruction does to every field, and the
invariant of a run.

A run is safe when no step of it ends in the fault: no table read at t ≥ 70930 (60_exceptions.md rule R520). -/

namespace Sys2Proof.Machine

/-! ### What an instruction does to the whole state -/

/-- The state behind a played schedule, given its registers: memory by the schedule's writes, the counter and the
trace as the schedule leaves them, `ro` unchanged. -/
def State.behind (s : State) (acts : List Act) (c : Cpu) (b : Bus) : State :=
  { cpu := c, mem := s.memAfter acts, roFlips := s.roFlips, t := b.time, fault := none, trace := b.trace }

/-- From a state with no fault the instruction answers the next state whose registers are `c` and whose memory,
counter and trace are those its Cycles line leaves; where that line reads the table at t ≥ 70930 it answers the
overrun fault. -/
def RunsAs (i : Instr) (s : State) (c : Cpu) : Prop :=
  s.fault = none →
    (∀ b, s.plays (cycles i s) = some b → exec i s = .next (s.behind (cycles i s) c b)) ∧
    (s.plays (cycles i s) = none → exec i s = .fault .contentionOverrun)

/-! ### The invariant -/

/-- What every step and every host action keeps: memory and the read-only map stand in their canonical forms. -/
def State.Inv (s : State) : Prop := s.mem.wf ∧ roFlipsWf s.roFlips

end Sys2Proof.Machine
end

