-- ==== Sys2Proof/Certificates/Slice0/Obligations.lean ====
section
/-! DEFINITION. The statements about the model, from the spec's numbered rules.

The instruction statements say `RunsAs i s c`: with no fault at s, exec i s answers the next state whose registers are
c, whose memory is s's with the writes of the instruction's Cycles line, whose counter and trace are those that line
leaves, and whose read-only map and fault are unchanged; it answers the overrun fault exactly where that line reads the
contention table too late. `c` is written out from the rule's Effect, Flags, MEMPTR and Q lines, so every register it
does not name is unchanged. -/

open Sys2Proof Sys2Proof.Machine

/-! ### Encoding -/

/-- Rules R130 to R148: decoding the bytes an instruction encodes to, whatever stands behind them, gives it back, with
every operand, and the bytes behind it (for a lone prefix, from the byte that decided on). -/
def Obligations.DecodeOfEncodeGivesTheInstructionBack : Prop :=
  ∀ (i : Instr) (rest : List Byte), i.wellFormed = true →
    decode (encode i ++ rest) = .ok (i, (encode i ++ rest).drop i.byteLength)

/-- Every four bytes decode to a well-formed instruction (rule R151, decoding is total), and encoding it gives the bytes
it was read from. The second half is the model's choice (log entry 11): a lone prefix carries, and `encode` writes, the
byte behind it, and the duplicate encodings of NEG, RETN and IM, BIT on indexed memory and the ED NOP keep the field or
byte that has no effect. -/
def Obligations.EveryByteSequenceDecodesAndEncodesBack : Prop :=
  ∀ b0 b1 b2 b3 : Byte,
    (decodeWindow b0 b1 b2 b3).wellFormed = true ∧
    encode (decodeWindow b0 b1 b2 b3) = [b0, b1, b2, b3].take (encode (decodeWindow b0 b1 b2 b3)).length

/-- Rules R149, R451, R519: a DD or FD byte is a lone prefix exactly before the bytes outside the index map as rule
R451 lists it, and an ED byte makes an ED NOP exactly before the unused opcodes of rule R149. -/
def Obligations.LonePrefixesAndEdNopsAreExactlyTheListedBytes : Prop :=
  (∀ (x : XY) (o b2 b3 : Byte), decodeWindow (xyByte x) o b2 b3 = .lonePrefix x o ↔ o ∉ indexMap) ∧
  (∀ o b2 b3 : Byte, decodeWindow 0xED o b2 b3 = .edNop o ↔ edUnused o = true) ∧
  indexMap.length = 86

/-- Words written out from the encodings of the opcode table, one or two of each prefix family. -/
def Obligations.WordsOfEveryPrefixFamilyDecodeAsTheTableSays : Prop :=
  decodeWindow 0b01000001 0x00 0x00 0x00 = .ldRR .b .c ∧
  decodeWindow 0b00100001 0x34 0x12 0x00 = .ldRpNn .hl 0x1234 ∧
  decodeWindow 0b11001011 0b01111100 0x00 0x00 = .bitR 7 .h ∧
  decodeWindow 0b11101101 0b01110011 0xFF 0x9F = .ldMnnRp .sp 0x9FFF ∧
  decodeWindow 0b11101101 0b10110000 0x00 0x00 = .ldir ∧
  decodeWindow 0b11011101 0b01111110 0xFB 0x00 = .ldRMxy .ix .a 0xFB ∧
  decodeWindow 0b11111101 0b00100110 0x5A 0x00 = .ldHalfN .iy .high 0x5A ∧
  decodeWindow 0b11011101 0b11001011 0x01 0b00000000 = .rlcMxy .ix 0x01 (some .b) ∧
  decodeWindow 0b11011101 0b00000000 0x00 0x00 = .lonePrefix .ix 0x00

/-! ### The step -/

/-- Rule R523: a step from a state with no fault runs the instruction whose bytes stand at PC, addresses modulo 65536,
and adds nothing around it: the instruction's own Cycles line fetches its bytes. A faulted state has no step (R58). -/
def Obligations.StepRunsTheInstructionAtPc : Prop :=
  (∀ (s : State) (i : Instr), s.fault = none → i.wellFormed = true →
    (∀ k, k < (encode i).length → s.byteAt (s.cpu.pc + BitVec.ofNat 16 k) = (encode i).getD k 0) →
    step s = exec i s) ∧
  (∀ (s : State) (r : Fault), s.fault = some r → step s = .fault r)

/-- Rules R100, R107, R521, R557: every instruction issues exactly the primitives of its Cycles line. With no fault,
exec answers a next state whose memory, counter and trace are those the line leaves; it answers the overrun fault
exactly where the line meets it; it never refuses. -/
def Obligations.EveryInstructionIssuesItsCyclesLine : Prop :=
  ∀ (i : Instr) (s : State), s.fault = none →
    (∀ b, s.plays (cycles i s) = some b → ∃ c, exec i s = .next (s.behind (cycles i s) c b)) ∧
    (s.plays (cycles i s) = none → exec i s = .fault .contentionOverrun)

/-- Rules R87, R524: an instruction that begins 128 t-states or more before the end of the contention table completes,
and takes from 4 to 128 t-states. -/
def Obligations.EveryInstructionCompletesBeforeTheTableEnds : Prop :=
  ∀ (i : Instr) (s : State), s.fault = none → s.t + 128 ≤ 70930 →
    ∃ u, exec i s = .next u ∧ u.fault = none ∧ s.t + 4 ≤ u.t ∧ u.t ≤ s.t + 128

/-! ### What every step keeps -/

/-- The canonical forms of memory and of the read-only map are kept by every step. -/
def Obligations.EveryStepKeepsTheInvariant : Prop :=
  ∀ s u : State, s.Inv → step s = .next u → u.Inv

/-- The state after reset meets the invariant, has no fault and an empty trace, and every register of it is 0
(rule R551). t = 0 and the bytes of memory are the model's choice (log entries 1 and 2) and not said here. -/
def Obligations.ResetStateMeetsTheInvariant : Prop :=
  State.reset.Inv ∧ State.reset.fault = none ∧ State.reset.trace = [] ∧
  (∀ x, State.reset.cpu.hostRead8 x = 0) ∧ (∀ x, State.reset.cpu.hostRead16 x = 0) ∧
  (∀ x, State.reset.cpu.hostReadBit x = false) ∧ State.reset.cpu.im = .im0 ∧
  (∀ a, State.reset.isReadOnly a = decide (a.toNat ≤ 0x3FFF))

/-- Every host action of rule R540 keeps the invariant. -/
def Obligations.EveryHostActionKeepsTheInvariant : Prop :=
  ∀ (call : HostCall) (s : State), s.Inv → (hostStep call s).Inv

/-- Rules R107, R524: a step strictly increases t, by at least 4, and only appends to the trace: at least the fetch of
the first opcode byte, every event between the times before and after the step. -/
def Obligations.EveryStepAdvancesTimeAndExtendsTheTrace : Prop :=
  ∀ s u : State, step s = .next u →
    s.t + 4 ≤ u.t ∧
    ∃ (e : BusEvent) (rest : List BusEvent), u.trace = s.trace ++ e :: rest ∧
      e.kind = .m1 ∧ e.addr = s.cpu.pc ∧ e.value = s.byteAt s.cpu.pc ∧
      ∀ x ∈ e :: rest, s.t < x.time ∧ x.time ≤ u.t

/-- Rules R48, R524: an instruction adds the number of its opcode fetches to the low 7 bits of R, modulo 128, and keeps
bit 7; `LD R,A` alone writes R. The fetches are 1 or 2. -/
def Obligations.RefreshRegisterCountsOpcodeFetches : Prop :=
  ∀ (i : Instr) (s u : State), exec i s = .next u →
    (opcodeFetches (cycles i s) = 1 ∨ opcodeFetches (cycles i s) = 2) ∧
    u.cpu.r = if i = .ldRA then s.cpu.a else refreshed (opcodeFetches (cycles i s)) s.cpu.r

/-- Rules R80, R81, R90: memory after every instruction. A byte outside the addresses its Cycles line stores to, and
every read-only byte, reads after it as it read before; a writable byte stored to reads as the last byte stored there;
the read-only map is unchanged. -/
def Obligations.MemoryChangesOnlyWhereTheInstructionStores : Prop :=
  ∀ (i : Instr) (s u : State), exec i s = .next u →
    (∀ a, a ∉ storeAddrs i s → u.byteAt a = s.byteAt a) ∧
    (∀ a, s.isReadOnly a = true → u.byteAt a = s.byteAt a) ∧
    (s.mem.wf → ∀ a, s.isReadOnly a = false →
      u.byteAt a = ((stores (cycles i s)).reverse.lookup a).getD (s.byteAt a)) ∧
    u.roFlips = s.roFlips

/-- Rule R41: the shadow registers change only by `EX AF,AF'` (AF') and `EXX` (the others). -/
def Obligations.ShadowRegistersChangeOnlyByExchange : Prop :=
  ∀ (i : Instr) (s u : State), exec i s = .next u →
    (i ≠ .exAfAf → u.cpu.aAlt = s.cpu.aAlt ∧ u.cpu.fAlt = s.cpu.fAlt) ∧
    (i ≠ .exx → u.cpu.bAlt = s.cpu.bAlt ∧ u.cpu.cAlt = s.cpu.cAlt ∧ u.cpu.dAlt = s.cpu.dAlt ∧
      u.cpu.eAlt = s.cpu.eAlt ∧ u.cpu.hAlt = s.cpu.hAlt ∧ u.cpu.lAlt = s.cpu.lAlt)

/-- Rules R47, R51, R52, R53: I is written by `LD I,A` only, IM by the IM instructions only, the interrupt enables by
EI, DI and, IFF1 alone, RETN and RETI; HALT is set by HALT and cleared by no instruction. -/
def Obligations.ControlRegistersChangeOnlyByTheirInstructions : Prop :=
  ∀ (i : Instr) (s u : State), exec i s = .next u →
    (i ≠ .ldIA → u.cpu.i = s.cpu.i) ∧
    ((∀ y, i ≠ .im0 y ∧ i ≠ .im1 y ∧ i ≠ .im2 y) → u.cpu.im = s.cpu.im) ∧
    (i ≠ .di → i ≠ .ei → u.cpu.iff2 = s.cpu.iff2) ∧
    (i ≠ .di → i ≠ .ei → i ≠ .reti → (∀ y, i ≠ .retn y) → u.cpu.iff1 = s.cpu.iff1) ∧
    u.cpu.halt = (s.cpu.halt || decide (i = .halt))

/-- Rule R54: EI_SHADOW is 1 at the end of a step exactly when it was EI or a lone prefix. -/
def Obligations.EiShadowIsSetByEiAndLonePrefixOnly : Prop :=
  ∀ (i : Instr) (s u : State), exec i s = .next u →
    (u.cpu.eiShadow = true ↔ i = .ei ∨ ∃ x q, i = .lonePrefix x q)

/-- Rules R46, R50: at the end of a step Q is F for the instructions whose Q line says F and 0 for all others; of
those others only `POP AF` and `EX AF,AF'` change F. -/
def Obligations.QHoldsTheFlagsOnlyAfterAFlagWritingInstruction : Prop :=
  ∀ (i : Instr) (s u : State), exec i s = .next u →
    u.cpu.q = (if writesFlags i then u.cpu.f else 0) ∧
    (writesFlags i = false → i ≠ .popQq .af → i ≠ .exAfAf → u.cpu.f = s.cpu.f)

/-! ### Memory, contention and ports -/

/-- Rules R81, R90: with no fault, and unless the table is read too late, after `MW(a, v)` the byte at a is v where
`ro[a] = 0`, and every other byte is what it was. Read-only or not, the write takes the table's delay and 3 t-states, is
appended to the trace and raises no fault. -/
def Obligations.WrittenByteReadsBackUnlessReadOnly : Prop :=
  ∀ (s : State) (a : Word) (v : Byte) (t1 : Nat), s.mem.wf → s.fault = none → (isContended a = true → s.t < 70930) →
    t1 = s.t + (if isContended a then contentionDelay s.t else 0) + 3 →
    (∀ x, (mw a v s).byteAt x = if x = a ∧ s.isReadOnly a = false then v else s.byteAt x) ∧
    (mw a v s).t = t1 ∧ (mw a v s).trace = s.trace ++ [⟨t1, .mw, a, v⟩] ∧ (mw a v s).fault = none ∧
    (mw a v s).cpu = s.cpu ∧ (mw a v s).roFlips = s.roFlips

/-- Rules R82, R86: on each of 192 lines of 224 t-states from 14335 the delays are 6,5,4,3,2,1,0,0 repeated 16 times and
then zero; outside they are zero; the table is 70930 long. The contended addresses are 0x4000 to 0x7FFF. -/
def Obligations.ContentionTableIsTheDisplayPattern : Prop :=
  (∀ line k, line < 192 → k < 224 →
    contentionDelay (14335 + 224 * line + k) = if k < 128 then [6, 5, 4, 3, 2, 1, 0, 0].getD (k % 8) 0 else 0) ∧
  (∀ t, t < 14335 ∨ 57342 < t → contentionDelay t = 0) ∧
  Config.contentionTableLen = 70930 ∧
  (∀ a : Word, isContended a = true ↔ 0x4000 ≤ a.toNat ∧ a.toNat ≤ 0x7FFF)

/-- Rule R97: the four cases of a port access's timing, and the overrun exactly where the table is read too late. -/
def Obligations.PortAccessTimingHasFourCases : Prop :=
  ∀ (p : Word) (s : State), s.fault = none →
    (p.getLsbD 0 = true → isContended p = false → ioContend p s = { s with t := s.t + 4 }) ∧
    (p.getLsbD 0 = false → ∀ t1, t1 = s.t + (if isContended p then contentionDelay s.t else 0) + 1 →
      (t1 < 70930 → ioContend p s = { s with t := t1 + contentionDelay t1 + 3 }) ∧
      (70930 ≤ t1 → (ioContend p s).fault = some .contentionOverrun)) ∧
    (p.getLsbD 0 = true → isContended p = true → ∀ t1 t2 t3, t1 = s.t + contentionDelay s.t + 1 →
      t2 = t1 + contentionDelay t1 + 1 → t3 = t2 + contentionDelay t2 + 1 →
      (t3 < 70930 → ioContend p s = { s with t := t3 + contentionDelay t3 + 1 }) ∧
      (70930 ≤ t3 → (ioContend p s).fault = some .contentionOverrun))

/-! ### Flags -/

/-- Rules R240, R241: the sum and the difference of two bytes and a carry, and every flag of them; PV is the overflow
of the signed result. -/
def Obligations.AdditionAndSubtractionFlags : Prop :=
  ∀ (a b : Byte) (c : Bool),
    ((add8 a b c).1.toNat = (a.toNat + b.toNat + c.toNat) % 256 ∧
     flagS (add8 a b c).2 = (add8 a b c).1.getLsbD 7 ∧ flagZ (add8 a b c).2 = ((add8 a b c).1 == 0) ∧
     flagY (add8 a b c).2 = (add8 a b c).1.getLsbD 5 ∧ flagX (add8 a b c).2 = (add8 a b c).1.getLsbD 3 ∧
     flagH (add8 a b c).2 = decide (a.toNat % 16 + b.toNat % 16 + c.toNat > 15) ∧
     flagPV (add8 a b c).2 = decide (a.toInt + b.toInt + c.toNat < -128 ∨ a.toInt + b.toInt + c.toNat > 127) ∧
     flagN (add8 a b c).2 = false ∧
     flagC (add8 a b c).2 = decide (a.toNat + b.toNat + c.toNat > 255)) ∧
    (((sub8 a b c).1.toNat : Int) = ((a.toNat : Int) - b.toNat - c.toNat) % 256 ∧
     flagS (sub8 a b c).2 = (sub8 a b c).1.getLsbD 7 ∧ flagZ (sub8 a b c).2 = ((sub8 a b c).1 == 0) ∧
     flagY (sub8 a b c).2 = (sub8 a b c).1.getLsbD 5 ∧ flagX (sub8 a b c).2 = (sub8 a b c).1.getLsbD 3 ∧
     flagH (sub8 a b c).2 = decide (a.toNat % 16 < b.toNat % 16 + c.toNat) ∧
     flagPV (sub8 a b c).2 = decide (a.toInt - b.toInt - c.toNat < -128 ∨ a.toInt - b.toInt - c.toNat > 127) ∧
     flagN (sub8 a b c).2 = true ∧
     flagC (sub8 a b c).2 = decide (a.toNat < b.toNat + c.toNat))

/-- Rules R242, R243, R244: the results of AND, XOR and OR and every flag of them; PV is the parity of the result. -/
def Obligations.LogicFlags : Prop :=
  ∀ (a b res f : Byte) (half : Bool),
    (res, f, half) ∈ [((and8 a b).1, (and8 a b).2, true), ((xor8 a b).1, (xor8 a b).2, false),
      ((or8 a b).1, (or8 a b).2, false)] →
    (and8 a b).1 = a &&& b ∧ (xor8 a b).1 = a ^^^ b ∧ (or8 a b).1 = a ||| b ∧
    flagS f = res.getLsbD 7 ∧ flagZ f = (res == 0) ∧ flagY f = res.getLsbD 5 ∧ flagX f = res.getLsbD 3 ∧
    flagH f = half ∧ flagPV f = decide (((List.range 8).countP fun k => res.getLsbD k) % 2 = 0) ∧
    flagN f = false ∧ flagC f = false

/-- Rule R245: CP takes S, Z, H, PV, N and C from the difference, Y and X from its operand. -/
def Obligations.CompareFlags : Prop :=
  ∀ a b : Byte,
    flagS (cp8 a b) = flagS (sub8 a b false).2 ∧ flagZ (cp8 a b) = decide (a = b) ∧
    flagH (cp8 a b) = flagH (sub8 a b false).2 ∧ flagPV (cp8 a b) = flagPV (sub8 a b false).2 ∧
    flagN (cp8 a b) = true ∧ flagC (cp8 a b) = decide (a.toNat < b.toNat) ∧
    flagY (cp8 a b) = b.getLsbD 5 ∧ flagX (cp8 a b) = b.getLsbD 3

/-- Rules R246, R247: the result and every flag of INC and DEC; C is kept. -/
def Obligations.IncrementAndDecrementFlags : Prop :=
  ∀ v f : Byte,
    ((inc8 v f).1 = v + 1 ∧ flagS (inc8 v f).2 = (v + 1).getLsbD 7 ∧ flagZ (inc8 v f).2 = (v + 1 == 0) ∧
     flagY (inc8 v f).2 = (v + 1).getLsbD 5 ∧ flagX (inc8 v f).2 = (v + 1).getLsbD 3 ∧
     flagH (inc8 v f).2 = (v &&& 0x0F == 0x0F) ∧ flagPV (inc8 v f).2 = (v + 1 == 0x80) ∧
     flagN (inc8 v f).2 = false ∧ flagC (inc8 v f).2 = flagC f) ∧
    ((dec8 v f).1 = v - 1 ∧ flagS (dec8 v f).2 = (v - 1).getLsbD 7 ∧ flagZ (dec8 v f).2 = (v - 1 == 0) ∧
     flagY (dec8 v f).2 = (v - 1).getLsbD 5 ∧ flagX (dec8 v f).2 = (v - 1).getLsbD 3 ∧
     flagH (dec8 v f).2 = (v &&& 0x0F == 0) ∧ flagPV (dec8 v f).2 = (v - 1 == 0x7F) ∧
     flagN (dec8 v f).2 = true ∧ flagC (dec8 v f).2 = flagC f) ∧
    inc8 v f = ((add8 v 1 false).1, ((add8 v 1 false).2 &&& 0xFE) ||| (f &&& 0x01)) ∧
    dec8 v f = ((sub8 v 1 false).1, ((sub8 v 1 false).2 &&& 0xFE) ||| (f &&& 0x01))

/-- Rule R290 with R240 and R241: DAA after the addition or subtraction of two decimal bytes gives the decimal sum or
difference modulo 100, and the decimal carry or borrow. On every byte and every F: the byte added or subtracted, and
every flag. -/
def Obligations.DecimalAdjustGivesTheDecimalResult : Prop :=
  (∀ (x y : Fin 100) (c : Bool) (bcd : Nat → Byte), (∀ n, bcd n = BitVec.ofNat 8 (16 * (n / 10) + n % 10)) →
    ((daa8 (add8 (bcd x) (bcd y) c).1 (add8 (bcd x) (bcd y) c).2).1 = bcd ((x + y + c.toNat) % 100) ∧
     flagC (daa8 (add8 (bcd x) (bcd y) c).1 (add8 (bcd x) (bcd y) c).2).2 = decide (x + y + c.toNat ≥ 100)) ∧
    ((daa8 (sub8 (bcd x) (bcd y) c).1 (sub8 (bcd x) (bcd y) c).2).1 = bcd ((100 + x - y - c.toNat) % 100) ∧
     flagC (daa8 (sub8 (bcd x) (bcd y) c).1 (sub8 (bcd x) (bcd y) c).2).2 = decide (x.val < y + c.toNat))) ∧
  (∀ (a f low high res g : Byte),
    low = (if f.getLsbD 4 ∨ a.toNat % 16 > 9 then 0x06 else 0) →
    high = (if f.getLsbD 0 ∨ a.toNat > 0x99 then 0x60 else 0) →
    res = (if f.getLsbD 1 then a - (low + high) else a + (low + high)) → g = (daa8 a f).2 →
    (daa8 a f).1 = res ∧
    g.getLsbD 7 = res.getLsbD 7 ∧ g.getLsbD 6 = (res == 0) ∧ g.getLsbD 5 = res.getLsbD 5 ∧
    g.getLsbD 4 = (if f.getLsbD 1 then f.getLsbD 4 && decide (a.toNat % 16 < 6) else decide (a.toNat % 16 > 9)) ∧
    g.getLsbD 3 = res.getLsbD 3 ∧ g.getLsbD 2 = decide (((List.range 8).countP fun k => res.getLsbD k) % 2 = 0) ∧
    g.getLsbD 1 = f.getLsbD 1 ∧ g.getLsbD 0 = (f.getLsbD 0 || decide (a.toNat > 0x99)))

/-! ### 8-bit and 16-bit loads, stack and exchange -/

/-- Rules R11, R134, R200 to R204: the loads change their destination alone, the stores write one byte at HL. The
operands name the registers the table says. -/
def Obligations.LoadsBetweenRegistersAndMemoryAtHl : Prop :=
  ∀ s : State,
    ([Reg8.b, .c, .d, .e, .h, .l, .a].map fun r => s.cpu.getR r)
      = [s.cpu.b, s.cpu.c, s.cpu.d, s.cpu.e, s.cpu.h, s.cpu.l, s.cpu.a] ∧
    (∀ v : Byte, ([Reg8.b, .c, .d, .e, .h, .l, .a].map fun r => s.cpu.setR r v)
      = [{ s.cpu with b := v }, { s.cpu with c := v }, { s.cpu with d := v }, { s.cpu with e := v },
         { s.cpu with h := v }, { s.cpu with l := v }, { s.cpu with a := v }]) ∧
    s.cpu.hl.toNat = 256 * s.cpu.h.toNat + s.cpu.l.toNat ∧
    (∀ r r2, RunsAs (.ldRR r r2) s ((s.cpu.fetched 1 1).setR r (s.cpu.getR r2)).quiet) ∧
    (∀ r n, RunsAs (.ldRN r n) s ((s.cpu.fetched 1 2).setR r n).quiet) ∧
    (∀ r, RunsAs (.ldRMhl r) s ((s.cpu.fetched 1 1).setR r (s.byteAt s.cpu.hl)).quiet) ∧
    (∀ r, stores (cycles (.ldMhlR r) s) = [(s.cpu.hl, s.cpu.getR r)] ∧
      RunsAs (.ldMhlR r) s (s.cpu.fetched 1 1).quiet) ∧
    (∀ n, stores (cycles (.ldMhlN n) s) = [(s.cpu.hl, n)] ∧ RunsAs (.ldMhlN n) s (s.cpu.fetched 1 2).quiet)

/-- Rules R9, R11, R205 to R210: MEMPTR is the address + 1 after a load, `A : lo8(lo(address) + 1)` after a store. -/
def Obligations.AccumulatorLoadsAndStores : Prop :=
  ∀ (s : State) (nn : Word),
    s.cpu.bc.toNat = 256 * s.cpu.b.toNat + s.cpu.c.toNat ∧ s.cpu.de.toNat = 256 * s.cpu.d.toNat + s.cpu.e.toNat ∧
    (∀ h l : Byte, (join h l).toNat = 256 * h.toNat + l.toNat) ∧ (loByte nn).toNat = nn.toNat % 256 ∧
    RunsAs .ldAMbc s { s.cpu.fetched 1 1 with a := s.byteAt s.cpu.bc, memptr := s.cpu.bc + 1 }.quiet ∧
    RunsAs .ldAMde s { s.cpu.fetched 1 1 with a := s.byteAt s.cpu.de, memptr := s.cpu.de + 1 }.quiet ∧
    RunsAs (.ldAMnn nn) s { s.cpu.fetched 1 3 with a := s.byteAt nn, memptr := nn + 1 }.quiet ∧
    stores (cycles .ldMbcA s) = [(s.cpu.bc, s.cpu.a)] ∧
    RunsAs .ldMbcA s { s.cpu.fetched 1 1 with memptr := join s.cpu.a (s.cpu.c + 1) }.quiet ∧
    stores (cycles .ldMdeA s) = [(s.cpu.de, s.cpu.a)] ∧
    RunsAs .ldMdeA s { s.cpu.fetched 1 1 with memptr := join s.cpu.a (s.cpu.e + 1) }.quiet ∧
    stores (cycles (.ldMnnA nn) s) = [(nn, s.cpu.a)] ∧
    RunsAs (.ldMnnA nn) s { s.cpu.fetched 1 3 with memptr := join s.cpu.a (loByte nn + 1) }.quiet

/-- Rules R211 to R214: `LD A,I` and `LD A,R` set S, Z, Y, X from the value read and PV from IFF2; `LD A,R` reads R
behind its own two fetches, `LD R,A` writes all of R behind them. `sz53` is rule R15's. -/
def Obligations.LoadsOfInterruptVectorAndRefresh : Prop :=
  ∀ s : State,
    (∀ v : Byte, sz53 v = (v &&& 0xA8) ||| (if v = 0 then 0x40 else 0)) ∧
    RunsAs .ldAI s (Cpu.flagged (sz53 s.cpu.i ||| maskIf s.cpu.iff2 0x04 ||| (s.cpu.f &&& 0x01))
      { s.cpu.fetched 2 2 with a := s.cpu.i }) ∧
    RunsAs .ldAR s (Cpu.flagged
      (sz53 (refreshed 2 s.cpu.r) ||| maskIf s.cpu.iff2 0x04 ||| (s.cpu.f &&& 0x01))
      { s.cpu.fetched 2 2 with a := refreshed 2 s.cpu.r }) ∧
    RunsAs .ldIA s { s.cpu.fetched 2 2 with i := s.cpu.a }.quiet ∧
    RunsAs .ldRA s { s.cpu.fetched 2 2 with r := s.cpu.a }.quiet

/-- Rules R11, R135, R220 to R225: the low byte stands at nn, the high byte at nn + 1. The operands name the pairs the
table says, the first register of a pair its high half. -/
def Obligations.PairLoadsAndStores : Prop :=
  ∀ (s : State) (rr : Rp) (nn : Word),
    (nn.toNat = 256 * (hiByte nn).toNat + (loByte nn).toNat) ∧
    ([Rp.bc, .de, .hl, .sp].map fun r => s.cpu.getRp r)
      = [join s.cpu.b s.cpu.c, join s.cpu.d s.cpu.e, join s.cpu.h s.cpu.l, s.cpu.sp] ∧
    ([Rp.bc, .de, .hl, .sp].map fun r => s.cpu.setRp r nn)
      = [{ s.cpu with b := hiByte nn, c := loByte nn }, { s.cpu with d := hiByte nn, e := loByte nn },
         { s.cpu with h := hiByte nn, l := loByte nn }, { s.cpu with sp := nn }] ∧
    RunsAs (.ldRpNn rr nn) s ((s.cpu.fetched 1 3).setRp rr nn).quiet ∧
    RunsAs (.ldHlMnn nn) s
      { s.cpu.fetched 1 3 with l := s.byteAt nn, h := s.byteAt (nn + 1), memptr := nn + 1 }.quiet ∧
    stores (cycles (.ldMnnHl nn) s) = [(nn, s.cpu.l), (nn + 1, s.cpu.h)] ∧
    RunsAs (.ldMnnHl nn) s { s.cpu.fetched 1 3 with memptr := nn + 1 }.quiet ∧
    RunsAs (.ldRpMnn rr nn) s
      { (s.cpu.fetched 2 4).setRp rr (join (s.byteAt (nn + 1)) (s.byteAt nn)) with memptr := nn + 1 }.quiet ∧
    stores (cycles (.ldMnnRp rr nn) s) = [(nn, loByte (s.cpu.getRp rr)), (nn + 1, hiByte (s.cpu.getRp rr))] ∧
    RunsAs (.ldMnnRp rr nn) s { s.cpu.fetched 2 4 with memptr := nn + 1 }.quiet ∧
    RunsAs .ldSpHl s { s.cpu.fetched 1 1 with sp := s.cpu.hl }.quiet

/-- Rules R136, R226, R227, R468, R469: a push lowers SP by 2, a pop reads the word at SP, low byte first, and raises SP
by 2, both modulo 65536; the high byte is stored at SP - 1, the low byte at SP - 2. -/
def Obligations.PushAndPopOfPairsAndIndexRegisters : Prop :=
  ∀ (s : State) (qq : Rp2) (x : XY) (w : Word), w = join (s.byteAt (s.cpu.sp + 1)) (s.byteAt s.cpu.sp) →
    ([Rp2.bc, .de, .hl, .af].map fun r => s.cpu.getRp2 r)
      = [join s.cpu.b s.cpu.c, join s.cpu.d s.cpu.e, join s.cpu.h s.cpu.l, join s.cpu.a s.cpu.f] ∧
    ([Rp2.bc, .de, .hl, .af].map fun r => s.cpu.setRp2 r w)
      = [{ s.cpu with b := hiByte w, c := loByte w }, { s.cpu with d := hiByte w, e := loByte w },
         { s.cpu with h := hiByte w, l := loByte w }, { s.cpu with a := hiByte w, f := loByte w }] ∧
    stores (cycles (.pushQq qq) s)
      = [(s.cpu.sp - 1, hiByte (s.cpu.getRp2 qq)), (s.cpu.sp - 2, loByte (s.cpu.getRp2 qq))] ∧
    RunsAs (.pushQq qq) s { s.cpu.fetched 1 1 with sp := s.cpu.sp - 2 }.quiet ∧
    RunsAs (.popQq qq) s ({ s.cpu.fetched 1 1 with sp := s.cpu.sp + 2 }.setRp2 qq w).quiet ∧
    stores (cycles (.pushXy x) s)
      = [(s.cpu.sp - 1, hiByte (s.cpu.getXy x)), (s.cpu.sp - 2, loByte (s.cpu.getXy x))] ∧
    RunsAs (.pushXy x) s { s.cpu.fetched 2 2 with sp := s.cpu.sp - 2 }.quiet ∧
    RunsAs (.popXy x) s ({ s.cpu.fetched 2 2 with sp := s.cpu.sp + 2 }.setXy x w).quiet

/-- Rules R228 to R231, R470: `EX (SP),HL` and `EX (SP),XY` exchange the word at SP, high byte stored first. -/
def Obligations.ExchangesOfRegistersAndStackTop : Prop :=
  ∀ (s : State) (x : XY) (w : Word), w = join (s.byteAt (s.cpu.sp + 1)) (s.byteAt s.cpu.sp) →
    RunsAs .exDeHl s
      { s.cpu.fetched 1 1 with d := s.cpu.h, e := s.cpu.l, h := s.cpu.d, l := s.cpu.e }.quiet ∧
    stores (cycles .exMspHl s) = [(s.cpu.sp + 1, s.cpu.h), (s.cpu.sp, s.cpu.l)] ∧
    RunsAs .exMspHl s
      { s.cpu.fetched 1 1 with h := s.byteAt (s.cpu.sp + 1), l := s.byteAt s.cpu.sp, memptr := w }.quiet ∧
    RunsAs .exAfAf s
      { s.cpu.fetched 1 1 with a := s.cpu.aAlt, f := s.cpu.fAlt, aAlt := s.cpu.a, fAlt := s.cpu.f }.quiet ∧
    RunsAs .exx s
      { s.cpu.fetched 1 1 with
        b := s.cpu.bAlt, c := s.cpu.cAlt, d := s.cpu.dAlt, e := s.cpu.eAlt, h := s.cpu.hAlt, l := s.cpu.lAlt
        bAlt := s.cpu.b, cAlt := s.cpu.c, dAlt := s.cpu.d, eAlt := s.cpu.e, hAlt := s.cpu.h, lAlt := s.cpu.l }.quiet ∧
    stores (cycles (.exMspXy x) s)
      = [(s.cpu.sp + 1, hiByte (s.cpu.getXy x)), (s.cpu.sp, loByte (s.cpu.getXy x))] ∧
    RunsAs (.exMspXy x) s { (s.cpu.fetched 2 2).setXy x w with memptr := w }.quiet

/-! ### 8-bit arithmetic and logic -/

/-- Rules R250 to R257. -/
def Obligations.AluOperationsOnRegisters : Prop :=
  ∀ (s : State) (r : Reg8) (a v f : Byte) (cy : Bool) (c : Cpu),
    a = s.cpu.a → v = s.cpu.getR r → f = s.cpu.f → cy = f.getLsbD 0 → c = s.cpu.fetched 1 1 →
    RunsAs (.addAR r) s (Cpu.flagged (add8 a v false).2 { c with a := (add8 a v false).1 }) ∧
    RunsAs (.adcAR r) s (Cpu.flagged (add8 a v cy).2 { c with a := (add8 a v cy).1 }) ∧
    RunsAs (.subR r) s (Cpu.flagged (sub8 a v false).2 { c with a := (sub8 a v false).1 }) ∧
    RunsAs (.sbcAR r) s (Cpu.flagged (sub8 a v cy).2 { c with a := (sub8 a v cy).1 }) ∧
    RunsAs (.andR r) s (Cpu.flagged (and8 a v).2 { c with a := (and8 a v).1 }) ∧
    RunsAs (.xorR r) s (Cpu.flagged (xor8 a v).2 { c with a := (xor8 a v).1 }) ∧
    RunsAs (.orR r) s (Cpu.flagged (or8 a v).2 { c with a := (or8 a v).1 }) ∧
    RunsAs (.cpR r) s (Cpu.flagged (cp8 a v) c)

/-- Rules R258 to R265. -/
def Obligations.AluOperationsOnImmediates : Prop :=
  ∀ (s : State) (v a f : Byte) (cy : Bool) (c : Cpu),
    a = s.cpu.a → f = s.cpu.f → cy = f.getLsbD 0 → c = s.cpu.fetched 1 2 →
    RunsAs (.addAN v) s (Cpu.flagged (add8 a v false).2 { c with a := (add8 a v false).1 }) ∧
    RunsAs (.adcAN v) s (Cpu.flagged (add8 a v cy).2 { c with a := (add8 a v cy).1 }) ∧
    RunsAs (.subN v) s (Cpu.flagged (sub8 a v false).2 { c with a := (sub8 a v false).1 }) ∧
    RunsAs (.sbcAN v) s (Cpu.flagged (sub8 a v cy).2 { c with a := (sub8 a v cy).1 }) ∧
    RunsAs (.andN v) s (Cpu.flagged (and8 a v).2 { c with a := (and8 a v).1 }) ∧
    RunsAs (.xorN v) s (Cpu.flagged (xor8 a v).2 { c with a := (xor8 a v).1 }) ∧
    RunsAs (.orN v) s (Cpu.flagged (or8 a v).2 { c with a := (or8 a v).1 }) ∧
    RunsAs (.cpN v) s (Cpu.flagged (cp8 a v) c)

/-- Rules R266 to R273. -/
def Obligations.AluOperationsOnMemoryAtHl : Prop :=
  ∀ (s : State) (a v f : Byte) (cy : Bool) (c : Cpu),
    a = s.cpu.a → v = s.byteAt s.cpu.hl → f = s.cpu.f → cy = f.getLsbD 0 → c = s.cpu.fetched 1 1 →
    RunsAs .addAMhl s (Cpu.flagged (add8 a v false).2 { c with a := (add8 a v false).1 }) ∧
    RunsAs .adcAMhl s (Cpu.flagged (add8 a v cy).2 { c with a := (add8 a v cy).1 }) ∧
    RunsAs .subMhl s (Cpu.flagged (sub8 a v false).2 { c with a := (sub8 a v false).1 }) ∧
    RunsAs .sbcAMhl s (Cpu.flagged (sub8 a v cy).2 { c with a := (sub8 a v cy).1 }) ∧
    RunsAs .andMhl s (Cpu.flagged (and8 a v).2 { c with a := (and8 a v).1 }) ∧
    RunsAs .xorMhl s (Cpu.flagged (xor8 a v).2 { c with a := (xor8 a v).1 }) ∧
    RunsAs .orMhl s (Cpu.flagged (or8 a v).2 { c with a := (or8 a v).1 }) ∧
    RunsAs .cpMhl s (Cpu.flagged (cp8 a v) c)

/-- Rules R474 to R481. -/
def Obligations.AluOperationsOnIndexHalves : Prop :=
  ∀ (s : State) (x : XY) (k : Half) (a v f : Byte) (cy : Bool) (c : Cpu),
    a = s.cpu.a → v = s.cpu.getHalf x k → f = s.cpu.f → cy = f.getLsbD 0 → c = s.cpu.fetched 2 2 →
    RunsAs (.addAHalf x k) s (Cpu.flagged (add8 a v false).2 { c with a := (add8 a v false).1 }) ∧
    RunsAs (.adcAHalf x k) s (Cpu.flagged (add8 a v cy).2 { c with a := (add8 a v cy).1 }) ∧
    RunsAs (.subHalf x k) s (Cpu.flagged (sub8 a v false).2 { c with a := (sub8 a v false).1 }) ∧
    RunsAs (.sbcAHalf x k) s (Cpu.flagged (sub8 a v cy).2 { c with a := (sub8 a v cy).1 }) ∧
    RunsAs (.andHalf x k) s (Cpu.flagged (and8 a v).2 { c with a := (and8 a v).1 }) ∧
    RunsAs (.xorHalf x k) s (Cpu.flagged (xor8 a v).2 { c with a := (xor8 a v).1 }) ∧
    RunsAs (.orHalf x k) s (Cpu.flagged (or8 a v).2 { c with a := (or8 a v).1 }) ∧
    RunsAs (.cpHalf x k) s (Cpu.flagged (cp8 a v) c)

/-- Rules R482 to R489: ea is XY plus the signed displacement, modulo 65536, and MEMPTR becomes ea. -/
def Obligations.AluOperationsOnIndexedMemory : Prop :=
  ∀ (s : State) (x : XY) (d a v f : Byte) (cy : Bool) (ea : Word) (c : Cpu),
    ea = BitVec.ofInt 16 ((s.cpu.getXy x).toNat + d.toInt) → a = s.cpu.a → v = s.byteAt ea → f = s.cpu.f →
    cy = f.getLsbD 0 → c = { s.cpu.fetched 2 3 with memptr := ea } →
    RunsAs (.addAMxy x d) s (Cpu.flagged (add8 a v false).2 { c with a := (add8 a v false).1 }) ∧
    RunsAs (.adcAMxy x d) s (Cpu.flagged (add8 a v cy).2 { c with a := (add8 a v cy).1 }) ∧
    RunsAs (.subMxy x d) s (Cpu.flagged (sub8 a v false).2 { c with a := (sub8 a v false).1 }) ∧
    RunsAs (.sbcAMxy x d) s (Cpu.flagged (sub8 a v cy).2 { c with a := (sub8 a v cy).1 }) ∧
    RunsAs (.andMxy x d) s (Cpu.flagged (and8 a v).2 { c with a := (and8 a v).1 }) ∧
    RunsAs (.xorMxy x d) s (Cpu.flagged (xor8 a v).2 { c with a := (xor8 a v).1 }) ∧
    RunsAs (.orMxy x d) s (Cpu.flagged (or8 a v).2 { c with a := (or8 a v).1 }) ∧
    RunsAs (.cpMxy x d) s (Cpu.flagged (cp8 a v) c)

/-- Rules R280 to R283: the memory forms write the result back and change F alone. -/
def Obligations.IncrementsAndDecrementsOfBytes : Prop :=
  ∀ (s : State) (r : Reg8) (v m f : Byte), v = s.cpu.getR r → m = s.byteAt s.cpu.hl → f = s.cpu.f →
    RunsAs (.incR r) s (Cpu.flagged (inc8 v f).2 ((s.cpu.fetched 1 1).setR r (inc8 v f).1)) ∧
    RunsAs (.decR r) s (Cpu.flagged (dec8 v f).2 ((s.cpu.fetched 1 1).setR r (dec8 v f).1)) ∧
    stores (cycles .incMhl s) = [(s.cpu.hl, (inc8 m f).1)] ∧
    RunsAs .incMhl s (Cpu.flagged (inc8 m f).2 (s.cpu.fetched 1 1)) ∧
    stores (cycles .decMhl s) = [(s.cpu.hl, (dec8 m f).1)] ∧
    RunsAs .decMhl s (Cpu.flagged (dec8 m f).2 (s.cpu.fetched 1 1))

/-- Rules R290 to R299: DAA, CPL, NEG (every y), SCF and CCF; Y and X of SCF and CCF under either value of
`SCF_CCF_XY`, from `(Q ^ F) | A` or from A. -/
def Obligations.AccumulatorAdjustments : Prop :=
  ∀ (s : State) (y : Fin 8) (a f xy : Byte), a = s.cpu.a → f = s.cpu.f →
    xy = (match Config.scfCcfXy with
      | .qRule => ((s.cpu.q ^^^ f) ||| a) &&& 0x28
      | .fromA => a &&& 0x28) →
    RunsAs .daa s (Cpu.flagged (daa8 a f).2 { s.cpu.fetched 1 1 with a := (daa8 a f).1 }) ∧
    RunsAs .cpl s (Cpu.flagged ((f &&& 0xC5) ||| 0x12 ||| (~~~a &&& 0x28)) { s.cpu.fetched 1 1 with a := ~~~a }) ∧
    RunsAs (.neg y) s (Cpu.flagged (sub8 0 a false).2 { s.cpu.fetched 2 2 with a := -a }) ∧
    RunsAs .scf s (Cpu.flagged ((f &&& 0xC4) ||| xy ||| 0x01) (s.cpu.fetched 1 1)) ∧
    RunsAs .ccf s (Cpu.flagged ((f &&& 0xC4) ||| xy ||| (if f.getLsbD 0 then 0x10 else 0x01)) (s.cpu.fetched 1 1))

/-- Rules R300 to R304. The first three clauses say the results and every flag of the 16-bit sums and difference, which
`ADD XY,rr` shares (rule R456); PV is the overflow of the signed result. -/
def Obligations.SixteenBitArithmetic : Prop :=
  (∀ (a b : Word) (f g : Byte) (res : Word), (res, g) = add16 a b f →
    res.toNat = (a.toNat + b.toNat) % 65536 ∧
    flagS g = flagS f ∧ flagZ g = flagZ f ∧ flagPV g = flagPV f ∧
    flagY g = res.getLsbD 13 ∧ flagX g = res.getLsbD 11 ∧ flagN g = false ∧
    flagH g = decide (a.toNat % 4096 + b.toNat % 4096 > 4095) ∧ flagC g = decide (a.toNat + b.toNat > 65535)) ∧
  (∀ (a b : Word) (c : Bool) (g : Byte) (res : Word), (res, g) = adc16 a b c →
    res.toNat = (a.toNat + b.toNat + c.toNat) % 65536 ∧
    flagS g = res.getLsbD 15 ∧ flagZ g = (res == 0) ∧ flagY g = res.getLsbD 13 ∧ flagX g = res.getLsbD 11 ∧
    flagH g = decide (a.toNat % 4096 + b.toNat % 4096 + c.toNat > 4095) ∧
    flagPV g = decide (a.toInt + b.toInt + c.toNat < -32768 ∨ a.toInt + b.toInt + c.toNat > 32767) ∧
    flagN g = false ∧ flagC g = decide (a.toNat + b.toNat + c.toNat > 65535)) ∧
  (∀ (a b : Word) (c : Bool) (g : Byte) (res : Word), (res, g) = sbc16 a b c →
    (res.toNat : Int) = ((a.toNat : Int) - b.toNat - c.toNat) % 65536 ∧
    flagS g = res.getLsbD 15 ∧ flagZ g = (res == 0) ∧ flagY g = res.getLsbD 13 ∧ flagX g = res.getLsbD 11 ∧
    flagH g = decide (a.toNat % 4096 < b.toNat % 4096 + c.toNat) ∧
    flagPV g = decide (a.toInt - b.toInt - c.toNat < -32768 ∨ a.toInt - b.toInt - c.toNat > 32767) ∧
    flagN g = true ∧ flagC g = decide (a.toNat < b.toNat + c.toNat)) ∧
  ∀ (s : State) (rr : Rp) (hl w : Word) (f : Byte) (cy : Bool),
    hl = s.cpu.hl → w = s.cpu.getRp rr → f = s.cpu.f → cy = f.getLsbD 0 →
    RunsAs (.addHlRp rr) s
      (Cpu.flagged (add16 hl w f).2 { (s.cpu.fetched 1 1).setHl (hl + w) with memptr := hl + 1 }) ∧
    RunsAs (.adcHlRp rr) s
      (Cpu.flagged (adc16 hl w cy).2 { (s.cpu.fetched 2 2).setHl (adc16 hl w cy).1 with memptr := hl + 1 }) ∧
    RunsAs (.sbcHlRp rr) s
      (Cpu.flagged (sbc16 hl w cy).2 { (s.cpu.fetched 2 2).setHl (sbc16 hl w cy).1 with memptr := hl + 1 }) ∧
    RunsAs (.incRp rr) s ((s.cpu.fetched 1 1).setRp rr (w + 1)).quiet ∧
    RunsAs (.decRp rr) s ((s.cpu.fetched 1 1).setRp rr (w - 1)).quiet

/-! ### Rotates, shifts and bits -/

/-- Rules R320 to R323: S, Z and PV are kept, H and N become 0, C is the bit shifted out. -/
def Obligations.RotatesOfTheAccumulator : Prop :=
  ∀ (s : State) (a f : Byte) (cy : Bool) (c : Cpu), a = s.cpu.a → f = s.cpu.f → cy = f.getLsbD 0 →
    c = s.cpu.fetched 1 1 →
    (∀ res : Byte, res = a.rotateLeft 1 →
      RunsAs .rlca s (Cpu.flagged ((f &&& 0xC4) ||| (res &&& 0x28) ||| (a >>> 7)) { c with a := res })) ∧
    (∀ res : Byte, res = a.rotateRight 1 →
      RunsAs .rrca s (Cpu.flagged ((f &&& 0xC4) ||| (res &&& 0x28) ||| (a &&& 0x01)) { c with a := res })) ∧
    (∀ res : Byte, res = (a <<< 1) ||| (if cy then 0x01 else 0) →
      RunsAs .rla s (Cpu.flagged ((f &&& 0xC4) ||| (res &&& 0x28) ||| (a >>> 7)) { c with a := res })) ∧
    (∀ res : Byte, res = (a >>> 1) ||| (if cy then 0x80 else 0) →
      RunsAs .rra s (Cpu.flagged ((f &&& 0xC4) ||| (res &&& 0x28) ||| (a &&& 0x01)) { c with a := res }))

/-- Rules R324 to R332: F is `sz53p` of the result, as rule R15 writes it, and the bit shifted out. -/
def Obligations.RotatesAndShiftsOfRegisters : Prop :=
  (∀ v : Byte, parity v = decide (((List.range 8).countP fun k => v.getLsbD k) % 2 = 0) ∧
    sz53p v = (v &&& 0xA8) ||| (if v = 0 then 0x40 else 0) ||| (if parity v then 0x04 else 0)) ∧
  ∀ (s : State) (r : Reg8) (v : Byte) (cy : Bool) (c : Cpu), v = s.cpu.getR r → cy = s.cpu.f.getLsbD 0 →
    c = s.cpu.fetched 2 2 →
    (∀ res : Byte, res = v.rotateLeft 1 →
      RunsAs (.rlcR r) s (Cpu.flagged (sz53p res ||| (v >>> 7)) (c.setR r res))) ∧
    (∀ res : Byte, res = v.rotateRight 1 →
      RunsAs (.rrcR r) s (Cpu.flagged (sz53p res ||| (v &&& 0x01)) (c.setR r res))) ∧
    (∀ res : Byte, res = (v <<< 1) ||| (if cy then 0x01 else 0) →
      RunsAs (.rlR r) s (Cpu.flagged (sz53p res ||| (v >>> 7)) (c.setR r res))) ∧
    (∀ res : Byte, res = (v >>> 1) ||| (if cy then 0x80 else 0) →
      RunsAs (.rrR r) s (Cpu.flagged (sz53p res ||| (v &&& 0x01)) (c.setR r res))) ∧
    (∀ res : Byte, res = v + v →
      RunsAs (.slaR r) s (Cpu.flagged (sz53p res ||| (v >>> 7)) (c.setR r res))) ∧
    (∀ res : Byte, res = v.sshiftRight 1 →
      RunsAs (.sraR r) s (Cpu.flagged (sz53p res ||| (v &&& 0x01)) (c.setR r res))) ∧
    (∀ res : Byte, res = v + v + 1 →
      RunsAs (.sllR r) s (Cpu.flagged (sz53p res ||| (v >>> 7)) (c.setR r res))) ∧
    (∀ res : Byte, res = v >>> 1 →
      RunsAs (.srlR r) s (Cpu.flagged (sz53p res ||| (v &&& 0x01)) (c.setR r res)))

/-- Rules R333 to R340: the byte at HL is rotated or shifted in place: the stored byte is the one said here, and F is
the only register the result reaches. -/
def Obligations.RotatesAndShiftsOfMemoryAtHl : Prop :=
  ∀ (s : State) (v : Byte) (cy : Bool) (c : Cpu), v = s.byteAt s.cpu.hl → cy = s.cpu.f.getLsbD 0 →
    c = s.cpu.fetched 2 2 →
    (∀ res : Byte, res = v.rotateLeft 1 → stores (cycles .rlcMhl s) = [(s.cpu.hl, res)] ∧
      RunsAs .rlcMhl s (Cpu.flagged (sz53p res ||| (v >>> 7)) c)) ∧
    (∀ res : Byte, res = v.rotateRight 1 → stores (cycles .rrcMhl s) = [(s.cpu.hl, res)] ∧
      RunsAs .rrcMhl s (Cpu.flagged (sz53p res ||| (v &&& 0x01)) c)) ∧
    (∀ res : Byte, res = (v <<< 1) ||| (if cy then 0x01 else 0) → stores (cycles .rlMhl s) = [(s.cpu.hl, res)] ∧
      RunsAs .rlMhl s (Cpu.flagged (sz53p res ||| (v >>> 7)) c)) ∧
    (∀ res : Byte, res = (v >>> 1) ||| (if cy then 0x80 else 0) → stores (cycles .rrMhl s) = [(s.cpu.hl, res)] ∧
      RunsAs .rrMhl s (Cpu.flagged (sz53p res ||| (v &&& 0x01)) c)) ∧
    (∀ res : Byte, res = v + v → stores (cycles .slaMhl s) = [(s.cpu.hl, res)] ∧
      RunsAs .slaMhl s (Cpu.flagged (sz53p res ||| (v >>> 7)) c)) ∧
    (∀ res : Byte, res = v.sshiftRight 1 → stores (cycles .sraMhl s) = [(s.cpu.hl, res)] ∧
      RunsAs .sraMhl s (Cpu.flagged (sz53p res ||| (v &&& 0x01)) c)) ∧
    (∀ res : Byte, res = v + v + 1 → stores (cycles .sllMhl s) = [(s.cpu.hl, res)] ∧
      RunsAs .sllMhl s (Cpu.flagged (sz53p res ||| (v >>> 7)) c)) ∧
    (∀ res : Byte, res = v >>> 1 → stores (cycles .srlMhl s) = [(s.cpu.hl, res)] ∧
      RunsAs .srlMhl s (Cpu.flagged (sz53p res ||| (v &&& 0x01)) c))

/-- Rules R148, R490 to R497: the byte at ea is rotated or shifted in place and copied to the register of the z field,
where there is one; MEMPTR becomes ea. -/
def Obligations.RotatesAndShiftsOfIndexedMemory : Prop :=
  ∀ (s : State) (x : XY) (d : Byte) (cp : Option Reg8) (ea : Word) (v : Byte) (cy : Bool) (c : Cpu),
    ea = BitVec.ofInt 16 ((s.cpu.getXy x).toNat + d.toInt) → v = s.byteAt ea → cy = s.cpu.f.getLsbD 0 →
    c = { s.cpu.fetched 2 4 with memptr := ea } →
    (∀ u : Byte, c.setCopy none u = c ∧ ∀ r, c.setCopy (some r) u = c.setR r u) ∧
    (∀ res : Byte, res = v.rotateLeft 1 → stores (cycles (.rlcMxy x d cp) s) = [(ea, res)] ∧
      RunsAs (.rlcMxy x d cp) s (Cpu.flagged (sz53p res ||| (v >>> 7)) (c.setCopy cp res))) ∧
    (∀ res : Byte, res = v.rotateRight 1 → stores (cycles (.rrcMxy x d cp) s) = [(ea, res)] ∧
      RunsAs (.rrcMxy x d cp) s (Cpu.flagged (sz53p res ||| (v &&& 0x01)) (c.setCopy cp res))) ∧
    (∀ res : Byte, res = (v <<< 1) ||| (if cy then 0x01 else 0) → stores (cycles (.rlMxy x d cp) s) = [(ea, res)] ∧
      RunsAs (.rlMxy x d cp) s (Cpu.flagged (sz53p res ||| (v >>> 7)) (c.setCopy cp res))) ∧
    (∀ res : Byte, res = (v >>> 1) ||| (if cy then 0x80 else 0) → stores (cycles (.rrMxy x d cp) s) = [(ea, res)] ∧
      RunsAs (.rrMxy x d cp) s (Cpu.flagged (sz53p res ||| (v &&& 0x01)) (c.setCopy cp res))) ∧
    (∀ res : Byte, res = v + v → stores (cycles (.slaMxy x d cp) s) = [(ea, res)] ∧
      RunsAs (.slaMxy x d cp) s (Cpu.flagged (sz53p res ||| (v >>> 7)) (c.setCopy cp res))) ∧
    (∀ res : Byte, res = v.sshiftRight 1 → stores (cycles (.sraMxy x d cp) s) = [(ea, res)] ∧
      RunsAs (.sraMxy x d cp) s (Cpu.flagged (sz53p res ||| (v &&& 0x01)) (c.setCopy cp res))) ∧
    (∀ res : Byte, res = v + v + 1 → stores (cycles (.sllMxy x d cp) s) = [(ea, res)] ∧
      RunsAs (.sllMxy x d cp) s (Cpu.flagged (sz53p res ||| (v >>> 7)) (c.setCopy cp res))) ∧
    (∀ res : Byte, res = v >>> 1 → stores (cycles (.srlMxy x d cp) s) = [(ea, res)] ∧
      RunsAs (.srlMxy x d cp) s (Cpu.flagged (sz53p res ||| (v &&& 0x01)) (c.setCopy cp res)))

/-- Rules R341, R345 to R349: BIT sets Z and PV from the tested bit, S for bit 7 set, H, and keeps C; Y and X come from
the register, or from the high byte of MEMPTR for (HL). RES and SET change one bit and no flag. -/
def Obligations.BitOperationsOnRegistersAndMemory : Prop :=
  ∀ (s : State) (b : Fin 8) (r : Reg8) (v m : Byte), v = s.cpu.getR r → m = s.byteAt s.cpu.hl →
    RunsAs (.bitR b r) s (Cpu.flagged ((s.cpu.f &&& 0x01) ||| 0x10 ||| (v &&& 0x28) |||
      (if v.getLsbD b then (if b = 7 then 0x80 else 0) else 0x44)) (s.cpu.fetched 2 2)) ∧
    RunsAs (.bitMhl b) s (Cpu.flagged ((s.cpu.f &&& 0x01) ||| 0x10 ||| (hiByte s.cpu.memptr &&& 0x28) |||
      (if m.getLsbD b then (if b = 7 then 0x80 else 0) else 0x44)) (s.cpu.fetched 2 2)) ∧
    (∀ res : Byte, (∀ k, k < 8 → res.getLsbD k = if k = b then false else v.getLsbD k) →
      RunsAs (.resR b r) s ((s.cpu.fetched 2 2).setR r res).quiet) ∧
    (∀ res : Byte, (∀ k, k < 8 → res.getLsbD k = if k = b then true else v.getLsbD k) →
      RunsAs (.setR b r) s ((s.cpu.fetched 2 2).setR r res).quiet) ∧
    (∀ res : Byte, (∀ k, k < 8 → res.getLsbD k = if k = b then false else m.getLsbD k) →
      stores (cycles (.resMhl b) s) = [(s.cpu.hl, res)] ∧ RunsAs (.resMhl b) s (s.cpu.fetched 2 2).quiet) ∧
    (∀ res : Byte, (∀ k, k < 8 → res.getLsbD k = if k = b then true else m.getLsbD k) →
      stores (cycles (.setMhl b) s) = [(s.cpu.hl, res)] ∧ RunsAs (.setMhl b) s (s.cpu.fetched 2 2).quiet)

/-- Rules R148, R511 to R513: the same on the byte at ea; BIT takes Y and X from the high byte of ea and ignores the z
field, RES and SET copy the result to the register of the z field; MEMPTR becomes ea. -/
def Obligations.BitOperationsOnIndexedMemory : Prop :=
  ∀ (s : State) (x : XY) (d : Byte) (b z : Fin 8) (cp : Option Reg8) (ea : Word) (m : Byte) (c : Cpu),
    ea = BitVec.ofInt 16 ((s.cpu.getXy x).toNat + d.toInt) → m = s.byteAt ea →
    c = { s.cpu.fetched 2 4 with memptr := ea } →
    RunsAs (.bitMxy x d b z) s (Cpu.flagged ((s.cpu.f &&& 0x01) ||| 0x10 ||| (hiByte ea &&& 0x28) |||
      (if m.getLsbD b then (if b = 7 then 0x80 else 0) else 0x44)) c) ∧
    (∀ res : Byte, (∀ k, k < 8 → res.getLsbD k = if k = b then false else m.getLsbD k) →
      stores (cycles (.resMxy x d b cp) s) = [(ea, res)] ∧ RunsAs (.resMxy x d b cp) s (c.setCopy cp res).quiet) ∧
    (∀ res : Byte, (∀ k, k < 8 → res.getLsbD k = if k = b then true else m.getLsbD k) →
      stores (cycles (.setMxy x d b cp) s) = [(ea, res)] ∧ RunsAs (.setMxy x d b cp) s (c.setCopy cp res).quiet)

/-- Rules R350, R351: the four-bit digits of A's low half and of the byte at HL rotate; the flags come from the new
A. -/
def Obligations.DecimalRotatesMoveDigits : Prop :=
  ∀ (s : State) (aHi aLo mHi mLo : BitVec 4), s.cpu.a = aHi ++ aLo → s.byteAt s.cpu.hl = mHi ++ mLo →
    stores (cycles .rld s) = [(s.cpu.hl, mLo ++ aLo)] ∧
    RunsAs .rld s (Cpu.flagged (sz53p (aHi ++ mHi) ||| (s.cpu.f &&& 0x01))
      { s.cpu.fetched 2 2 with a := aHi ++ mHi, memptr := s.cpu.hl + 1 }) ∧
    stores (cycles .rrd s) = [(s.cpu.hl, aLo ++ mHi)] ∧
    RunsAs .rrd s (Cpu.flagged (sz53p (aHi ++ mLo) ||| (s.cpu.f &&& 0x01))
      { s.cpu.fetched 2 2 with a := aHi ++ mLo, memptr := s.cpu.hl + 1 })

/-! ### Jumps, calls and returns -/

/-- Rules R137, R360 to R365, R471: a relative target is the address behind the instruction plus the signed
displacement; MEMPTR is nn for JP whether or not it is taken, the target of a taken relative jump, and unchanged
otherwise. The first clause is the truth table of the conditions, which CALL cc and RET cc share. -/
def Obligations.JumpsGoToTheirTargets : Prop :=
  (∀ f : Byte, ([Cond.nz, .z, .nc, .c, .po, .pe, .p, .m].map fun cc => condHolds cc f)
      = [!f.getLsbD 6, f.getLsbD 6, !f.getLsbD 0, f.getLsbD 0, !f.getLsbD 2, f.getLsbD 2, !f.getLsbD 7, f.getLsbD 7] ∧
    ([JrCond.nz, .z, .nc, .c].map fun jc => jrCondHolds jc f)
      = [!f.getLsbD 6, f.getLsbD 6, !f.getLsbD 0, f.getLsbD 0]) ∧
  ∀ (s : State) (cc : Cond) (jc : JrCond) (nn target : Word) (e : Byte) (x : XY),
    target = BitVec.ofInt 16 (s.cpu.pc.toNat + 2 + e.toInt) →
    RunsAs (.jp nn) s { s.cpu.fetched 1 3 with pc := nn, memptr := nn }.quiet ∧
    RunsAs (.jpCc cc nn) s
      { s.cpu.fetched 1 3 with
        pc := if condHolds cc s.cpu.f then nn else s.cpu.pc + 3, memptr := nn }.quiet ∧
    RunsAs (.jr e) s { s.cpu.fetched 1 2 with pc := target, memptr := target }.quiet ∧
    RunsAs (.jrCc jc e) s
      (if jrCondHolds jc s.cpu.f then { s.cpu.fetched 1 2 with pc := target, memptr := target }.quiet
       else (s.cpu.fetched 1 2).quiet) ∧
    RunsAs (.djnz e) s
      (if s.cpu.b = 1 then { s.cpu.fetched 1 2 with b := 0 }.quiet
       else { s.cpu.fetched 1 2 with b := s.cpu.b - 1, pc := target, memptr := target }.quiet) ∧
    RunsAs .jpHl s { s.cpu.fetched 1 1 with pc := s.cpu.hl }.quiet ∧
    RunsAs (.jpXy x) s { s.cpu.fetched 2 2 with pc := s.cpu.getXy x }.quiet

/-- Rules R366 to R377: a taken call or RST stores the address behind it at SP-2 and SP-1 and goes to its target; a
taken return goes to the word at SP; RETN (every y) and RETI also copy IFF2 to IFF1. -/
def Obligations.CallsPushAndReturnsPopTheReturnAddress : Prop :=
  ∀ (s : State) (cc : Cond) (nn w : Word) (y : Fin 8), w = join (s.byteAt (s.cpu.sp + 1)) (s.byteAt s.cpu.sp) →
    (stores (cycles (.call nn) s)
        = [(s.cpu.sp - 1, hiByte (s.cpu.pc + 3)), (s.cpu.sp - 2, loByte (s.cpu.pc + 3))] ∧
      RunsAs (.call nn) s { s.cpu.fetched 1 3 with sp := s.cpu.sp - 2, pc := nn, memptr := nn }.quiet) ∧
    (condHolds cc s.cpu.f = true → stores (cycles (.callCc cc nn) s) = stores (cycles (.call nn) s) ∧
      RunsAs (.callCc cc nn) s { s.cpu.fetched 1 3 with sp := s.cpu.sp - 2, pc := nn, memptr := nn }.quiet) ∧
    (condHolds cc s.cpu.f = false → stores (cycles (.callCc cc nn) s) = [] ∧
      RunsAs (.callCc cc nn) s { s.cpu.fetched 1 3 with memptr := nn }.quiet) ∧
    RunsAs .ret s { s.cpu.fetched 1 1 with sp := s.cpu.sp + 2, pc := w, memptr := w }.quiet ∧
    (condHolds cc s.cpu.f = true →
      RunsAs (.retCc cc) s { s.cpu.fetched 1 1 with sp := s.cpu.sp + 2, pc := w, memptr := w }.quiet) ∧
    (condHolds cc s.cpu.f = false → RunsAs (.retCc cc) s (s.cpu.fetched 1 1).quiet) ∧
    RunsAs (.retn y) s
      { s.cpu.fetched 2 2 with sp := s.cpu.sp + 2, pc := w, memptr := w, iff1 := s.cpu.iff2 }.quiet ∧
    RunsAs .reti s
      { s.cpu.fetched 2 2 with sp := s.cpu.sp + 2, pc := w, memptr := w, iff1 := s.cpu.iff2 }.quiet ∧
    (stores (cycles (.rst y) s)
        = [(s.cpu.sp - 1, hiByte (s.cpu.pc + 1)), (s.cpu.sp - 2, loByte (s.cpu.pc + 1))] ∧
      ∀ p : Word, p.toNat = 8 * y.val →
        RunsAs (.rst y) s { s.cpu.fetched 1 1 with sp := s.cpu.sp - 2, pc := p, memptr := p }.quiet)

/-! ### Block instructions -/

/-- Rules R390 to R395: one byte moves from (HL) to (DE), HL and DE step by 1 and BC falls by 1; n is the byte plus A,
and PV says BC is not 0. A repeat goes back to its own first byte while BC is not 0, and MEMPTR is then PC + 1. -/
def Obligations.BlockTransfersMoveOneByteAStep : Prop :=
  ∀ (s : State) (v n f : Byte) (bc1 : Word) (up down : Cpu),
    v = s.byteAt s.cpu.hl → n = v + s.cpu.a → bc1 = s.cpu.bc - 1 →
    f = (s.cpu.f &&& 0xC1) ||| (if n.getLsbD 1 then 0x20 else 0) ||| (n &&& 0x08) ||| (if bc1 = 0 then 0 else 0x04) →
    up = Cpu.flagged f ((((s.cpu.fetched 2 2).setBc bc1).setHl (s.cpu.hl + 1)).setDe (s.cpu.de + 1)) →
    down = Cpu.flagged f ((((s.cpu.fetched 2 2).setBc bc1).setHl (s.cpu.hl - 1)).setDe (s.cpu.de - 1)) →
    stores (cycles .ldi s) = [(s.cpu.de, v)] ∧ RunsAs .ldi s up ∧
    stores (cycles .ldd s) = [(s.cpu.de, v)] ∧ RunsAs .ldd s down ∧
    stores (cycles .ldir s) = [(s.cpu.de, v)] ∧
    RunsAs .ldir s (if bc1 = 0 then up else { up with pc := s.cpu.pc, memptr := s.cpu.pc + 1 }) ∧
    stores (cycles .lddr s) = [(s.cpu.de, v)] ∧
    RunsAs .lddr s (if bc1 = 0 then down else { down with pc := s.cpu.pc, memptr := s.cpu.pc + 1 })

/-- Rules R390, R391, R396 to R399: A is compared with the byte at HL and keeps its value; C is kept, the other flags
come from the difference; HL and MEMPTR step by 1 and BC falls by 1. A repeat goes back while BC is not 0 and the bytes
differ. -/
def Obligations.BlockSearchesCompareOneByteAStep : Prop :=
  ∀ (s : State) (v d n f : Byte) (bc1 : Word) (up down : Cpu),
    v = s.byteAt s.cpu.hl → d = s.cpu.a - v → bc1 = s.cpu.bc - 1 →
    n = d - (if s.cpu.a.toNat % 16 < v.toNat % 16 then 1 else 0) →
    f = (d &&& 0x80) ||| (if d = 0 then 0x40 else 0) ||| (if n.getLsbD 1 then 0x20 else 0) |||
      (if s.cpu.a.toNat % 16 < v.toNat % 16 then 0x10 else 0) ||| (n &&& 0x08) ||| (if bc1 = 0 then 0 else 0x04) |||
      0x02 ||| (s.cpu.f &&& 0x01) →
    up = Cpu.flagged f
      { ((s.cpu.fetched 2 2).setBc bc1).setHl (s.cpu.hl + 1) with memptr := s.cpu.memptr + 1 } →
    down = Cpu.flagged f
      { ((s.cpu.fetched 2 2).setBc bc1).setHl (s.cpu.hl - 1) with memptr := s.cpu.memptr - 1 } →
    RunsAs .cpi s up ∧
    RunsAs .cpd s down ∧
    RunsAs .cpir s (if bc1 = 0 ∨ d = 0 then up else { up with pc := s.cpu.pc, memptr := s.cpu.pc + 1 }) ∧
    RunsAs .cpdr s (if bc1 = 0 ∨ d = 0 then down else { down with pc := s.cpu.pc, memptr := s.cpu.pc + 1 })

/-- Rules R390, R391, R400 to R408: input stores the byte read from port BC at HL; output sends the byte at HL to the
port with B already lowered. The byte read is whatever the free value `BusIn` gives at that moment (log entry 3). B
falls by 1, HL steps by 1, MEMPTR is the port plus or minus 1. A repeat goes back while B is not 0. -/
def Obligations.BlockInputAndOutputMoveOneByteAStep : Prop :=
  ∀ (s : State) (v m b1 l1 l2 : Byte) (port : Word) (flags : Byte → Nat → Byte) (iniS indS outS outdS : Cpu),
    v = inBlockByte s → m = s.byteAt s.cpu.hl → b1 = s.cpu.b - 1 → port = join b1 s.cpu.c →
    l1 = loByte (s.cpu.hl + 1) → l2 = loByte (s.cpu.hl - 1) →
    (∀ w k, flags w k = sz53 b1 ||| (if k > 255 then 0x11 else 0) ||| (if w.getLsbD 7 then 0x02 else 0) |||
      (if parity (BitVec.ofNat 8 (k % 8) ^^^ b1) then 0x04 else 0)) →
    iniS = Cpu.flagged (flags v (v.toNat + (s.cpu.c + 1).toNat))
      { (s.cpu.fetched 2 2).setHl (s.cpu.hl + 1) with b := b1, memptr := s.cpu.bc + 1 } →
    indS = Cpu.flagged (flags v (v.toNat + (s.cpu.c - 1).toNat))
      { (s.cpu.fetched 2 2).setHl (s.cpu.hl - 1) with b := b1, memptr := s.cpu.bc - 1 } →
    outS = Cpu.flagged (flags m (m.toNat + l1.toNat))
      { (s.cpu.fetched 2 2).setHl (s.cpu.hl + 1) with b := b1, memptr := port + 1 } →
    outdS = Cpu.flagged (flags m (m.toNat + l2.toNat))
      { (s.cpu.fetched 2 2).setHl (s.cpu.hl - 1) with b := b1, memptr := port - 1 } →
    (∀ i ∈ [Instr.ini, .ind, .inir, .indr], stores (cycles i s) = [(s.cpu.hl, v)]) ∧
    (∀ i ∈ [Instr.outi, .outd, .otir, .otdr], stores (cycles i s) = [] ∧ Act.iow port m ∈ cycles i s) ∧
    RunsAs .ini s iniS ∧ RunsAs .ind s indS ∧ RunsAs .outi s outS ∧ RunsAs .outd s outdS ∧
    RunsAs .inir s (if b1 = 0 then iniS else { iniS with pc := s.cpu.pc, memptr := s.cpu.pc + 1 }) ∧
    RunsAs .indr s (if b1 = 0 then indS else { indS with pc := s.cpu.pc, memptr := s.cpu.pc + 1 }) ∧
    RunsAs .otir s (if b1 = 0 then outS else { outS with pc := s.cpu.pc, memptr := s.cpu.pc + 1 }) ∧
    RunsAs .otdr s (if b1 = 0 then outdS else { outdS with pc := s.cpu.pc, memptr := s.cpu.pc + 1 })

/-! ### Ports and CPU control -/

/-- Rules R420 to R425: the byte a port read returns is whatever the free value `BusIn` gives at that moment (log entry
3); an output sends A, a register or 0 to its port. -/
def Obligations.PortInputAndOutput : Prop :=
  ∀ (s : State) (r : Reg8) (n v w : Byte) (p : Word), p = join s.cpu.a n →
    v = s.portByte [.m1 s.cpu.pc, .mr (s.cpu.pc + 1)] p →
    w = s.portByte [.m1 s.cpu.pc, .m1 (s.cpu.pc + 1)] s.cpu.bc →
    RunsAs (.inAMn n) s { s.cpu.fetched 1 2 with a := v, memptr := p + 1 }.quiet ∧
    RunsAs (.inRC r) s (Cpu.flagged (sz53p w ||| (s.cpu.f &&& 0x01))
      { (s.cpu.fetched 2 2).setR r w with memptr := s.cpu.bc + 1 }) ∧
    RunsAs .inFC s (Cpu.flagged (sz53p w ||| (s.cpu.f &&& 0x01))
      { s.cpu.fetched 2 2 with memptr := s.cpu.bc + 1 }) ∧
    cycles (.outMnA n) s = [.m1 s.cpu.pc, .mr (s.cpu.pc + 1), .iow p s.cpu.a] ∧
    RunsAs (.outMnA n) s { s.cpu.fetched 1 2 with memptr := join s.cpu.a (n + 1) }.quiet ∧
    cycles (.outCR r) s = [.m1 s.cpu.pc, .m1 (s.cpu.pc + 1), .iow s.cpu.bc (s.cpu.getR r)] ∧
    RunsAs (.outCR r) s { s.cpu.fetched 2 2 with memptr := s.cpu.bc + 1 }.quiet ∧
    cycles .outC0 s = [.m1 s.cpu.pc, .m1 (s.cpu.pc + 1), .iow s.cpu.bc 0] ∧
    RunsAs .outC0 s { s.cpu.fetched 2 2 with memptr := s.cpu.bc + 1 }.quiet

/-- Rules R428 to R437, R519: HALT leaves PC at itself; a lone prefix is a step of its own that sets EI_SHADOW, as EI
does. -/
def Obligations.CpuControlInstructions : Prop :=
  ∀ (s : State) (y : Fin 8) (o q : Byte) (x : XY),
    RunsAs .nop s (s.cpu.fetched 1 1).quiet ∧
    RunsAs .halt s { s.cpu.fetched 1 1 with pc := s.cpu.pc, halt := true }.quiet ∧
    RunsAs .di s { s.cpu.fetched 1 1 with iff1 := false, iff2 := false }.quiet ∧
    RunsAs .ei s { s.cpu.fetched 1 1 with iff1 := true, iff2 := true, q := 0, eiShadow := true } ∧
    RunsAs (.im0 y) s { s.cpu.fetched 2 2 with im := .im0 }.quiet ∧
    RunsAs (.im1 y) s { s.cpu.fetched 2 2 with im := .im1 }.quiet ∧
    RunsAs (.im2 y) s { s.cpu.fetched 2 2 with im := .im2 }.quiet ∧
    RunsAs (.edNop o) s (s.cpu.fetched 2 2).quiet ∧
    RunsAs (.lonePrefix x q) s { s.cpu.fetched 1 1 with q := 0, eiShadow := true }

/-! ### Index registers -/

/-- Rules R42, R453 to R458, R472. The flags of `ADD XY,rr` are those `SixteenBitArithmetic` writes out. -/
def Obligations.SixteenBitOperationsOnIndexRegisters : Prop :=
  ∀ (s : State) (x : XY) (rr : RpXY) (nn xy w : Word), xy = s.cpu.getXy x → w = s.cpu.getRpXY x rr →
    (s.cpu.getXy .ix = s.cpu.ix ∧ s.cpu.getXy .iy = s.cpu.iy ∧ s.cpu.setXy .ix nn = { s.cpu with ix := nn } ∧
      s.cpu.setXy .iy nn = { s.cpu with iy := nn }) ∧
    ([RpXY.bc, .de, .xy, .sp].map fun r => s.cpu.getRpXY x r)
      = [join s.cpu.b s.cpu.c, join s.cpu.d s.cpu.e, xy, s.cpu.sp] ∧
    RunsAs (.ldXyNn x nn) s ((s.cpu.fetched 2 4).setXy x nn).quiet ∧
    RunsAs (.ldXyMnn x nn) s
      { (s.cpu.fetched 2 4).setXy x (join (s.byteAt (nn + 1)) (s.byteAt nn)) with memptr := nn + 1 }.quiet ∧
    stores (cycles (.ldMnnXy x nn) s) = [(nn, loByte xy), (nn + 1, hiByte xy)] ∧
    RunsAs (.ldMnnXy x nn) s { s.cpu.fetched 2 4 with memptr := nn + 1 }.quiet ∧
    RunsAs (.addXyRp x rr) s
      (Cpu.flagged (add16 xy w s.cpu.f).2 { (s.cpu.fetched 2 2).setXy x (xy + w) with memptr := xy + 1 }) ∧
    RunsAs (.incXy x) s ((s.cpu.fetched 2 2).setXy x (xy + 1)).quiet ∧
    RunsAs (.decXy x) s ((s.cpu.fetched 2 2).setXy x (xy - 1)).quiet ∧
    RunsAs (.ldSpXy x) s { s.cpu.fetched 2 2 with sp := xy }.quiet

/-- Rules R452, R459 to R467: the halves stand in for H and L, the forms with (XY+d) load and store the real registers
and set MEMPTR to ea. -/
def Obligations.ByteOperationsOnIndexHalvesAndIndexedMemory : Prop :=
  ∀ (s : State) (x : XY) (k : Half) (r r2 : Reg8) (d n v m f : Byte) (ea : Word) (c : Cpu),
    ea = BitVec.ofInt 16 ((s.cpu.getXy x).toNat + d.toInt) → v = s.cpu.getHalf x k → m = s.byteAt ea →
    f = s.cpu.f → c = { s.cpu.fetched 2 3 with memptr := ea } →
    s.cpu.getXy x = join (s.cpu.getHalf x .high) (s.cpu.getHalf x .low) ∧
    (s.cpu.setHalf x .high n = s.cpu.setXy x (join n (s.cpu.getHalf x .low)) ∧
      s.cpu.setHalf x .low n = s.cpu.setXy x (join (s.cpu.getHalf x .high) n)) ∧
    ([Reg8.b, .c, .d, .e, .h, .l, .a].map fun r => s.cpu.getRx x r)
      = [s.cpu.b, s.cpu.c, s.cpu.d, s.cpu.e, s.cpu.getHalf x .high, s.cpu.getHalf x .low, s.cpu.a] ∧
    ([Reg8.b, .c, .d, .e, .h, .l, .a].map fun r => s.cpu.setRx x r n)
      = [{ s.cpu with b := n }, { s.cpu with c := n }, { s.cpu with d := n }, { s.cpu with e := n },
         s.cpu.setHalf x .high n, s.cpu.setHalf x .low n, { s.cpu with a := n }] ∧
    RunsAs (.incHalf x k) s (Cpu.flagged (inc8 v f).2 ((s.cpu.fetched 2 2).setHalf x k (inc8 v f).1)) ∧
    RunsAs (.decHalf x k) s (Cpu.flagged (dec8 v f).2 ((s.cpu.fetched 2 2).setHalf x k (dec8 v f).1)) ∧
    RunsAs (.ldHalfN x k n) s ((s.cpu.fetched 2 3).setHalf x k n).quiet ∧
    RunsAs (.ldRRHalf x r r2) s ((s.cpu.fetched 2 2).setRx x r (s.cpu.getRx x r2)).quiet ∧
    RunsAs (.ldRMxy x r d) s (c.setR r m).quiet ∧
    RunsAs (.ldMxyR x r d) s c.quiet ∧
    RunsAs (.ldMxyN x d n) s { s.cpu.fetched 2 4 with memptr := ea }.quiet ∧
    RunsAs (.incMxy x d) s (Cpu.flagged (inc8 m f).2 c) ∧
    RunsAs (.decMxy x d) s (Cpu.flagged (dec8 m f).2 c) ∧
    stores (cycles (.ldMxyR x r d) s) = [(ea, s.cpu.getR r)] ∧ stores (cycles (.ldMxyN x d n) s) = [(ea, n)] ∧
    stores (cycles (.incMxy x d) s) = [(ea, (inc8 m f).1)] ∧ stores (cycles (.decMxy x d) s) = [(ea, (dec8 m f).1)]

/-! ### Interrupts, reset and the host -/

/-- Rules R525 to R527: a call with IFF1 = 0 or EI_SHADOW = 1 changes nothing; any other is accepted: it leaves HALT
(PC past it), clears both enables, counts one fetch in R, passes 7 uncontended t-states, pushes PC, goes to 0x0038 in
IM 0 and IM 1, to the word at I:0xFF in IM 2, sets MEMPTR to it and Q to 0. -/
def Obligations.InterruptIsTakenExactlyWhenEnabled : Prop :=
  ∀ s : State, s.fault = none →
    (s.cpu.iff1 = false ∨ s.cpu.eiShadow = true → interrupt s = (.next s, false)) ∧
    (s.cpu.iff1 = true → s.cpu.eiShadow = false →
      ∀ (back vector target : Word) (acts : List Act) (pushed : State),
        back = (if s.cpu.halt then s.cpu.pc + 1 else s.cpu.pc) → vector = join s.cpu.i 0xFF →
        pushed = { s with mem := s.memAfter (pushActs s.cpu back) } →
        target = (if s.cpu.im = .im2 then pushed.wordAt vector else 0x0038) →
        acts = pushActs s.cpu back ++ (if s.cpu.im = .im2 then [.mr vector, .mr (vector + 1)] else []) →
        (∀ b, play pushed.byteAt acts ⟨s.t + 7, s.trace⟩ = some b →
          interrupt s = (.next (s.behind (pushActs s.cpu back)
            { s.cpu with
              halt := false, iff1 := false, iff2 := false, r := refreshed 1 s.cpu.r, sp := s.cpu.sp - 2
              pc := target, memptr := target, q := 0 } b), true)) ∧
        (play pushed.byteAt acts ⟨s.t + 7, s.trace⟩ = none →
          interrupt s = (.fault .contentionOverrun, true)))

/-- Rule R530: an NMI is always taken: it leaves HALT, clears IFF1 and keeps IFF2, counts one fetch in R, passes 5
uncontended t-states, pushes PC, goes to 0x0066, and clears Q and EI_SHADOW. -/
def Obligations.NmiIsAlwaysTaken : Prop :=
  ∀ (s : State) (back : Word), s.fault = none → back = (if s.cpu.halt then s.cpu.pc + 1 else s.cpu.pc) →
    (∀ b, play s.byteAt (pushActs s.cpu back) ⟨s.t + 5, s.trace⟩ = some b →
      nmi s = .next (s.behind (pushActs s.cpu back)
        { s.cpu with
          halt := false, iff1 := false, r := refreshed 1 s.cpu.r, sp := s.cpu.sp - 2
          pc := 0x0066, memptr := 0x0066, q := 0, eiShadow := false } b)) ∧
    (play s.byteAt (pushActs s.cpu back) ⟨s.t + 5, s.trace⟩ = none → nmi s = .fault .contentionOverrun)

/-- Rules R551, R552: what the two resets leave. -/
def Obligations.HardAndSoftResetLeaveTheStatedRegisters : Prop :=
  ∀ s : State,
    (∃ c, s.resetCpu true = { s with cpu := c } ∧ (∀ x, c.hostRead8 x = 0) ∧ (∀ x, c.hostRead16 x = 0) ∧
      (∀ x, c.hostReadBit x = false) ∧ c.im = .im0) ∧
    s.resetCpu false = { s with cpu := { s.cpu with
      pc := 0, i := 0, r := 0, iff1 := false, iff2 := false, im := .im0, halt := false, eiShadow := false, q := 0 } }

/-- Rules R58, R540: a faulted state has no step, no host action changes it and an interrupt call returns false. -/
def Obligations.FaultedStateAcceptsNothing : Prop :=
  ∀ (s : State) (r : Fault), s.fault = some r →
    step s = .fault r ∧ nmi s = .fault r ∧ interrupt s = (.fault r, false) ∧
    (∀ call, hostStep call s = s) ∧ (∀ i, exec i s = .fault r)

/-- Rules R55, R56, R61, R98, R540: what each host action that is not a step, a call or a reset changes, and that it
changes nothing else. `load` puts its bytes past the read-only map, clamped at 0xFFFF; `clear` zeroes exactly the bytes
with `ro = 0`; the host sets one bit of the map; it writes one register; it sets t. The accessors read the registers
they name. -/
def Obligations.HostLoadClearAndReadOnlyMap : Prop :=
  ∀ (s : State) (addr a x : Word) (bytes : List Byte) (b : Bool), s.mem.wf → s.fault = none →
    (hostStep (.load addr bytes) s).byteAt x
      = (if addr.toNat ≤ x.toNat ∧ x.toNat < addr.toNat + bytes.length then bytes.getD (x.toNat - addr.toNat) 0
         else s.byteAt x) ∧
    (hostStep .clear s).byteAt x = (if s.isReadOnly x then s.byteAt x else 0) ∧
    (hostStep (.setReadOnly a b) s).isReadOnly x = (if x = a then b else s.isReadOnly x) ∧
    (∀ call ∈ [HostCall.load addr bytes, .clear], (hostStep call s).roFlips = s.roFlips) ∧
    (hostStep (.setReadOnly a b) s).mem = s.mem ∧
    (∀ call ∈ [HostCall.load addr bytes, .clear, .setReadOnly a b],
      (hostStep call s).cpu = s.cpu ∧ (hostStep call s).t = s.t ∧ (hostStep call s).trace = s.trace ∧
      (hostStep call s).fault = none) ∧
    (∀ t : Nat, hostStep (.setTime t) s = { s with t := t }) ∧
    (∀ (reg : HostReg8) (v : Byte), ∃ c, hostStep (.write8 reg v) s = { s with cpu := c } ∧
      (∀ other, c.hostRead8 other = if other = reg then v else s.cpu.hostRead8 other) ∧
      (∀ other, c.hostRead16 other = s.cpu.hostRead16 other) ∧ (∀ other, c.hostReadBit other = s.cpu.hostReadBit other) ∧
      c.im = s.cpu.im) ∧
    (∀ (reg : HostReg16) (w : Word), ∃ c, hostStep (.write16 reg w) s = { s with cpu := c } ∧
      (∀ other, c.hostRead16 other = if other = reg then w else s.cpu.hostRead16 other) ∧
      (∀ other, c.hostRead8 other = s.cpu.hostRead8 other) ∧ (∀ other, c.hostReadBit other = s.cpu.hostReadBit other) ∧
      c.im = s.cpu.im) ∧
    (∀ (reg : HostBit) (v : Bool), ∃ c, hostStep (.writeBit reg v) s = { s with cpu := c } ∧
      (∀ other, c.hostReadBit other = if other = reg then v else s.cpu.hostReadBit other) ∧
      (∀ other, c.hostRead8 other = s.cpu.hostRead8 other) ∧ (∀ other, c.hostRead16 other = s.cpu.hostRead16 other) ∧
      c.im = s.cpu.im) ∧
    (∀ m : IntMode, hostStep (.writeIm m) s = { s with cpu := { s.cpu with im := m } }) ∧
    ([HostReg8.a, .f, .b, .c, .d, .e, .h, .l, .aAlt, .fAlt, .bAlt, .cAlt, .dAlt, .eAlt, .hAlt, .lAlt, .i, .r, .q].map
        fun reg => s.cpu.hostRead8 reg)
      = [s.cpu.a, s.cpu.f, s.cpu.b, s.cpu.c, s.cpu.d, s.cpu.e, s.cpu.h, s.cpu.l, s.cpu.aAlt, s.cpu.fAlt, s.cpu.bAlt,
         s.cpu.cAlt, s.cpu.dAlt, s.cpu.eAlt, s.cpu.hAlt, s.cpu.lAlt, s.cpu.i, s.cpu.r, s.cpu.q] ∧
    ([HostReg16.ix, .iy, .sp, .pc, .memptr].map fun reg => s.cpu.hostRead16 reg)
      = [s.cpu.ix, s.cpu.iy, s.cpu.sp, s.cpu.pc, s.cpu.memptr] ∧
    ([HostBit.iff1, .iff2, .halt, .eiShadow].map fun reg => s.cpu.hostReadBit reg)
      = [s.cpu.iff1, s.cpu.iff2, s.cpu.halt, s.cpu.eiShadow]
end

