-- ==== Sys2Proof/Laws/State.lean ====
section
/-! SUPPORT. One lemma per field and operation: what each shared operation leaves in the registers, the memory and the
read-only map. Later proofs use these and unfold no operation. -/

namespace Sys2Proof.Machine

/-! ### Register updates -/

@[simp] theorem State.upd_cpu (f : Cpu → Cpu) (s : State) : (s.upd f).cpu = f s.cpu := rfl
@[simp] theorem State.upd_mem (f : Cpu → Cpu) (s : State) : (s.upd f).mem = s.mem := rfl
@[simp] theorem State.upd_roFlips (f : Cpu → Cpu) (s : State) : (s.upd f).roFlips = s.roFlips := rfl
@[simp] theorem State.upd_t (f : Cpu → Cpu) (s : State) : (s.upd f).t = s.t := rfl
@[simp] theorem State.upd_fault (f : Cpu → Cpu) (s : State) : (s.upd f).fault = s.fault := rfl
@[simp] theorem State.upd_trace (f : Cpu → Cpu) (s : State) : (s.upd f).trace = s.trace := rfl

/-! ### Operations on the counter and the trace alone -/

@[simp] theorem passTime_cpu (n : Nat) (s : State) : (passTime n s).cpu = s.cpu := rfl
@[simp] theorem passTime_mem (n : Nat) (s : State) : (passTime n s).mem = s.mem := rfl
@[simp] theorem passTime_roFlips (n : Nat) (s : State) : (passTime n s).roFlips = s.roFlips := rfl

@[simp] theorem consultTable_cpu (n : Nat) (s : State) : (consultTable n s).cpu = s.cpu := by
  unfold consultTable; split <;> rfl
@[simp] theorem consultTable_mem (n : Nat) (s : State) : (consultTable n s).mem = s.mem := by
  unfold consultTable; split <;> rfl
@[simp] theorem consultTable_roFlips (n : Nat) (s : State) : (consultTable n s).roFlips = s.roFlips := by
  unfold consultTable; split <;> rfl

@[simp] theorem contendOnce_cpu (a : Word) (d : Nat) (s : State) : (contendOnce a d s).cpu = s.cpu := by
  unfold contendOnce; split <;> simp
@[simp] theorem contendOnce_mem (a : Word) (d : Nat) (s : State) : (contendOnce a d s).mem = s.mem := by
  unfold contendOnce; split <;> simp
@[simp] theorem contendOnce_roFlips (a : Word) (d : Nat) (s : State) : (contendOnce a d s).roFlips = s.roFlips := by
  unfold contendOnce; split <;> simp

@[simp] theorem contend_cpu (a : Word) (d n : Nat) (s : State) : (contend a d n s).cpu = s.cpu := by
  induction n generalizing s with
  | zero => rfl
  | succ n ih => rw [contend, ih, contendOnce_cpu]
@[simp] theorem contend_mem (a : Word) (d n : Nat) (s : State) : (contend a d n s).mem = s.mem := by
  induction n generalizing s with
  | zero => rfl
  | succ n ih => rw [contend, ih, contendOnce_mem]
@[simp] theorem contend_roFlips (a : Word) (d n : Nat) (s : State) : (contend a d n s).roFlips = s.roFlips := by
  induction n generalizing s with
  | zero => rfl
  | succ n ih => rw [contend, ih, contendOnce_roFlips]

@[simp] theorem logEvent_cpu (k : BusKind) (a : Word) (v : Byte) (s : State) : (logEvent k a v s).cpu = s.cpu := rfl
@[simp] theorem logEvent_mem (k : BusKind) (a : Word) (v : Byte) (s : State) : (logEvent k a v s).mem = s.mem := rfl
@[simp] theorem logEvent_roFlips (k : BusKind) (a : Word) (v : Byte) (s : State) : (logEvent k a v s).roFlips = s.roFlips := rfl

@[simp] theorem mr_cpu (a : Word) (s : State) : (mr a s).cpu = s.cpu := by simp [mr]
@[simp] theorem mr_mem (a : Word) (s : State) : (mr a s).mem = s.mem := by simp [mr]
@[simp] theorem mr_roFlips (a : Word) (s : State) : (mr a s).roFlips = s.roFlips := by simp [mr]

@[simp] theorem ic_cpu (a : Word) (n : Nat) (s : State) : (ic a n s).cpu = s.cpu := by simp [ic]
@[simp] theorem ic_mem (a : Word) (n : Nat) (s : State) : (ic a n s).mem = s.mem := by simp [ic]
@[simp] theorem ic_roFlips (a : Word) (n : Nat) (s : State) : (ic a n s).roFlips = s.roFlips := by simp [ic]

@[simp] theorem icIR_cpu (n : Nat) (s : State) : (icIR n s).cpu = s.cpu := by simp [icIR]
@[simp] theorem icIR_mem (n : Nat) (s : State) : (icIR n s).mem = s.mem := by simp [icIR]
@[simp] theorem icIR_roFlips (n : Nat) (s : State) : (icIR n s).roFlips = s.roFlips := by simp [icIR]

@[simp] theorem ioContend_cpu (p : Word) (s : State) : (ioContend p s).cpu = s.cpu := by
  unfold ioContend; repeat' split
  all_goals simp
@[simp] theorem ioContend_mem (p : Word) (s : State) : (ioContend p s).mem = s.mem := by
  unfold ioContend; repeat' split
  all_goals simp
@[simp] theorem ioContend_roFlips (p : Word) (s : State) : (ioContend p s).roFlips = s.roFlips := by
  unfold ioContend; repeat' split
  all_goals simp

@[simp] theorem ior_cpu (p : Word) (s : State) : (ior p s).cpu = s.cpu := by simp [ior]
@[simp] theorem ior_mem (p : Word) (s : State) : (ior p s).mem = s.mem := by simp [ior]
@[simp] theorem ior_roFlips (p : Word) (s : State) : (ior p s).roFlips = s.roFlips := by simp [ior]

@[simp] theorem iow_cpu (p : Word) (v : Byte) (s : State) : (iow p v s).cpu = s.cpu := by simp [iow]
@[simp] theorem iow_mem (p : Word) (v : Byte) (s : State) : (iow p v s).mem = s.mem := by simp [iow]
@[simp] theorem iow_roFlips (p : Word) (v : Byte) (s : State) : (iow p v s).roFlips = s.roFlips := by simp [iow]

@[simp] theorem mr2_cpu (a : Word) (s : State) : (mr2 a s).cpu = s.cpu := by simp [mr2]
@[simp] theorem mr2_mem (a : Word) (s : State) : (mr2 a s).mem = s.mem := by simp [mr2]
@[simp] theorem mr2_roFlips (a : Word) (s : State) : (mr2 a s).roFlips = s.roFlips := by simp [mr2]

/-! ### Fetches -/

@[simp] theorem m1_cpu (s : State) :
    (m1 s).cpu = { s.cpu with r := bumpRefresh s.cpu.r, pc := s.cpu.pc + 1 } := by simp [m1]
@[simp] theorem m1_mem (s : State) : (m1 s).mem = s.mem := by simp [m1]
@[simp] theorem m1_roFlips (s : State) : (m1 s).roFlips = s.roFlips := by simp [m1]

@[simp] theorem mrPc_cpu (s : State) : (mrPc s).cpu = { s.cpu with pc := s.cpu.pc + 1 } := by simp [mrPc]
@[simp] theorem mrPc_mem (s : State) : (mrPc s).mem = s.mem := by simp [mrPc]
@[simp] theorem mrPc_roFlips (s : State) : (mrPc s).roFlips = s.roFlips := by simp [mrPc]

/-! ### Stores -/

@[simp] theorem mw_cpu (a : Word) (v : Byte) (s : State) : (mw a v s).cpu = s.cpu := by
  simp only [mw, logEvent_cpu]; split <;> simp
@[simp] theorem mw_roFlips (a : Word) (v : Byte) (s : State) : (mw a v s).roFlips = s.roFlips := by
  simp only [mw, logEvent_roFlips]; split <;> simp
@[simp] theorem mw_mem (a : Word) (v : Byte) (s : State) :
    (mw a v s).mem = if isReadOnlyIn s.roFlips a then s.mem else s.mem.write a.toNat v := by
  simp only [mw, logEvent_mem, State.isReadOnly, contend_roFlips]; split <;> simp

@[simp] theorem pushByte_cpu (v : Byte) (s : State) :
    (pushByte v s).cpu = { s.cpu with sp := s.cpu.sp - 1 } := by simp [pushByte]
@[simp] theorem pushByte_roFlips (v : Byte) (s : State) : (pushByte v s).roFlips = s.roFlips := by simp [pushByte]
@[simp] theorem pushByte_mem (v : Byte) (s : State) :
    (pushByte v s).mem = if isReadOnlyIn s.roFlips (s.cpu.sp - 1) then s.mem
      else s.mem.write (s.cpu.sp - 1).toNat v := by simp [pushByte]

@[simp] theorem popByte_cpu (s : State) : (popByte s).cpu = { s.cpu with sp := s.cpu.sp + 1 } := by simp [popByte]
@[simp] theorem popByte_mem (s : State) : (popByte s).mem = s.mem := by simp [popByte]
@[simp] theorem popByte_roFlips (s : State) : (popByte s).roFlips = s.roFlips := by simp [popByte]

@[simp] theorem jumpTo_cpu (w : Word) (s : State) :
    (jumpTo w s).cpu = { s.cpu with pc := w, memptr := w } := rfl
@[simp] theorem jumpTo_mem (w : Word) (s : State) : (jumpTo w s).mem = s.mem := rfl
@[simp] theorem jumpTo_roFlips (w : Word) (s : State) : (jumpTo w s).roFlips = s.roFlips := rfl

/-! ### Reading memory behind an operation that stores nothing -/

theorem State.byteAt_congr {s u : State} (h : u.mem = s.mem) (a : Word) : u.byteAt a = s.byteAt a := by
  rw [State.byteAt, State.byteAt, h]

theorem State.wordAt_congr {s u : State} (h : u.mem = s.mem) (a : Word) : u.wordAt a = s.wordAt a := by
  simp only [State.wordAt, State.byteAt_congr h]

@[simp] theorem State.upd_byteAt (f : Cpu → Cpu) (s : State) (a : Word) : (s.upd f).byteAt a = s.byteAt a :=
  State.byteAt_congr (by simp) a
@[simp] theorem State.upd_wordAt (f : Cpu → Cpu) (s : State) (a : Word) : (s.upd f).wordAt a = s.wordAt a :=
  State.wordAt_congr (by simp) a
@[simp] theorem passTime_byteAt (n : Nat) (s : State) (a : Word) : (passTime n s).byteAt a = s.byteAt a :=
  State.byteAt_congr (by simp) a
@[simp] theorem passTime_wordAt (n : Nat) (s : State) (a : Word) : (passTime n s).wordAt a = s.wordAt a :=
  State.wordAt_congr (by simp) a
@[simp] theorem contend_byteAt (x : Word) (d n : Nat) (s : State) (a : Word) : (contend x d n s).byteAt a = s.byteAt a :=
  State.byteAt_congr (by simp) a
@[simp] theorem contend_wordAt (x : Word) (d n : Nat) (s : State) (a : Word) : (contend x d n s).wordAt a = s.wordAt a :=
  State.wordAt_congr (by simp) a
@[simp] theorem m1_byteAt (s : State) (a : Word) : (m1 s).byteAt a = s.byteAt a :=
  State.byteAt_congr (by simp) a
@[simp] theorem m1_wordAt (s : State) (a : Word) : (m1 s).wordAt a = s.wordAt a :=
  State.wordAt_congr (by simp) a
@[simp] theorem mrPc_byteAt (s : State) (a : Word) : (mrPc s).byteAt a = s.byteAt a :=
  State.byteAt_congr (by simp) a
@[simp] theorem mrPc_wordAt (s : State) (a : Word) : (mrPc s).wordAt a = s.wordAt a :=
  State.wordAt_congr (by simp) a
@[simp] theorem mr_byteAt (x : Word) (s : State) (a : Word) : (mr x s).byteAt a = s.byteAt a :=
  State.byteAt_congr (by simp) a
@[simp] theorem mr_wordAt (x : Word) (s : State) (a : Word) : (mr x s).wordAt a = s.wordAt a :=
  State.wordAt_congr (by simp) a
@[simp] theorem ic_byteAt (x : Word) (n : Nat) (s : State) (a : Word) : (ic x n s).byteAt a = s.byteAt a :=
  State.byteAt_congr (by simp) a
@[simp] theorem ic_wordAt (x : Word) (n : Nat) (s : State) (a : Word) : (ic x n s).wordAt a = s.wordAt a :=
  State.wordAt_congr (by simp) a
@[simp] theorem icIR_byteAt (n : Nat) (s : State) (a : Word) : (icIR n s).byteAt a = s.byteAt a :=
  State.byteAt_congr (by simp) a
@[simp] theorem icIR_wordAt (n : Nat) (s : State) (a : Word) : (icIR n s).wordAt a = s.wordAt a :=
  State.wordAt_congr (by simp) a
@[simp] theorem ior_byteAt (p : Word) (s : State) (a : Word) : (ior p s).byteAt a = s.byteAt a :=
  State.byteAt_congr (by simp) a
@[simp] theorem ior_wordAt (p : Word) (s : State) (a : Word) : (ior p s).wordAt a = s.wordAt a :=
  State.wordAt_congr (by simp) a
@[simp] theorem iow_byteAt (p : Word) (v : Byte) (s : State) (a : Word) : (iow p v s).byteAt a = s.byteAt a :=
  State.byteAt_congr (by simp) a
@[simp] theorem iow_wordAt (p : Word) (v : Byte) (s : State) (a : Word) : (iow p v s).wordAt a = s.wordAt a :=
  State.wordAt_congr (by simp) a
@[simp] theorem jumpTo_byteAt (w : Word) (s : State) (a : Word) : (jumpTo w s).byteAt a = s.byteAt a :=
  State.byteAt_congr (by simp) a
@[simp] theorem jumpTo_wordAt (w : Word) (s : State) (a : Word) : (jumpTo w s).wordAt a = s.wordAt a :=
  State.wordAt_congr (by simp) a
@[simp] theorem popByte_byteAt (s : State) (a : Word) : (popByte s).byteAt a = s.byteAt a :=
  State.byteAt_congr (by simp) a
@[simp] theorem popByte_wordAt (s : State) (a : Word) : (popByte s).wordAt a = s.wordAt a :=
  State.wordAt_congr (by simp) a

/-! ### The stack, interrupt entry and return, each said once -/

theorem push_cpu (w : Word) (s : State) : (push w s).cpu = { s.cpu with sp := s.cpu.sp - 2 } := by
  have h : s.cpu.sp - 1#16 - 1#16 = s.cpu.sp - 2#16 := by bv_omega
  simp [push, h]

theorem pop_cpu (s : State) : (pop s).cpu = { s.cpu with sp := s.cpu.sp + 2 } := by
  have h : s.cpu.sp + 1#16 + 1#16 = s.cpu.sp + 2#16 := by bv_omega
  simp [pop, h]

theorem returnFromCall_cpu (s : State) :
    (returnFromCall s).cpu
      = { s.cpu with sp := s.cpu.sp + 2, pc := s.wordAt s.cpu.sp, memptr := s.wordAt s.cpu.sp } := by
  simp [returnFromCall, pop_cpu]

theorem returnFromInterrupt_cpu (s : State) :
    (returnFromInterrupt s).cpu = { (returnFromCall s).cpu with iff1 := s.cpu.iff2 } := by
  simp [returnFromInterrupt, returnFromCall_cpu]

theorem acknowledge_cpu (wait : Nat) (s : State) :
    (acknowledge wait s).cpu
      = { s.cpu.leaveHalt with r := bumpRefresh s.cpu.r, sp := s.cpu.leaveHalt.sp - 2 } := by
  simp [acknowledge, push_cpu]

theorem enterHandler_cpu (w : Word) (s : State) :
    (enterHandler w s).cpu = { s.cpu with pc := w, memptr := w, q := 0 } := by
  simp [enterHandler]

/-! ### The end of a step -/

theorem outcome_eq_next {s u : State} : outcome s = .next u ↔ s.fault = none ∧ u = s := by
  unfold outcome
  split
  · next h => simp [h, eq_comm]
  · next r h => simp [h]

theorem outcome_eq_fault {s : State} {r : Fault} : outcome s = .fault r ↔ s.fault = some r := by
  unfold outcome
  split
  · next h => simp [h]
  · next q h => simp [h]

theorem outcome_ne_refused {s : State} {r : Refusal} : outcome s ≠ .refused r := by
  unfold outcome
  split <;> simp

end Sys2Proof.Machine
end

