-- ==== Sys2Proof/Laws/Bus.lean ====
section
/-! SUPPORT. What each primitive does to the counter, the trace and the fault, in the terms of Machine/Cycles.lean,
and the lemma that turns a meaning into a statement `RunsAs`. -/

namespace Sys2Proof.Machine

/-- The counter and trace of a state with no fault. -/
def State.live (s : State) : Option Bus :=
  match s.fault with
  | none   => some s.bus
  | some _ => none

theorem State.live_of_none {s : State} (h : s.fault = none) : s.live = some s.bus := by simp [State.live, h]

theorem State.live_eq_some {s : State} {b : Bus} (h : s.live = some b) :
    s.fault = none ∧ s.t = b.time ∧ s.trace = b.trace := by
  unfold State.live at h
  split at h
  · next hf => cases h; exact ⟨hf, rfl, rfl⟩
  · cases h

theorem State.live_eq_none {s : State} (h : s.live = none) : s.fault = some .contentionOverrun := by
  unfold State.live at h
  split at h
  · cases h
  · next r hf => cases r; exact hf

/-! ### One law per primitive -/

@[simp] theorem upd_live (f : Cpu → Cpu) (s : State) : (s.upd f).live = s.live := rfl

@[simp] theorem passTime_live (n : Nat) (s : State) : (passTime n s).live = s.live.bind (Bus.tick false n) := by
  unfold State.live passTime
  cases s.fault <;> simp [State.bus, Bus.tick]

@[simp] theorem consultTable_live (n : Nat) (s : State) :
    (consultTable n s).live = s.live.bind (Bus.tick true n) := by
  unfold consultTable
  split
  · next h => unfold State.live; cases s.fault <;> simp [State.bus, Bus.tick, h]
  · next h => unfold State.live; cases s.fault <;> simp [State.bus, Bus.tick, h]

@[simp] theorem contendOnce_live (a : Word) (d : Nat) (s : State) :
    (contendOnce a d s).live = s.live.bind (Bus.tick (isContended a) d) := by
  unfold contendOnce
  split
  · next h => rw [h, consultTable_live]
  · next h => rw [passTime_live, Bool.eq_false_iff.mpr h]

@[simp] theorem contend_one_live (a : Word) (d : Nat) (s : State) :
    (contend a d 1 s).live = s.live.bind (Bus.tick (isContended a) d) := contendOnce_live a d s

@[simp] theorem ic_live (a : Word) (n : Nat) (s : State) :
    (ic a n s).live = s.live.bind (Bus.ticks (isContended a) n) := by
  unfold ic
  induction n generalizing s with
  | zero => cases h : s.live <;> simp [contend, Bus.ticks, h]
  | succ n ih =>
    rw [contend, ih, contendOnce_live, Option.bind_assoc]
    rfl

@[simp] theorem icIR_live (n : Nat) (s : State) :
    (icIR n s).live = s.live.bind (Bus.ticks (isContended s.cpu.ir) n) := ic_live _ n s

@[simp] theorem logEvent_live (k : BusKind) (a : Word) (v : Byte) (s : State) :
    (logEvent k a v s).live = s.live.map (Bus.record k a v) := by
  unfold State.live logEvent
  cases s.fault <;> rfl

@[simp] theorem ioContend_live (p : Word) (s : State) :
    (ioContend p s).live = s.live.bind (Bus.portCycle p) := by
  have hpc : Bus.portCycle p = fun b => match p.getLsbD 0, isContended p with
      | false, high => (b.tick high 1).bind (Bus.tick true 3)
      | true, true  => b.ticks true 4
      | true, false => b.tick false 4 := rfl
  rw [hpc]
  unfold ioContend
  cases hp : p.getLsbD 0 <;> cases hc : isContended p <;> simp [Option.bind_assoc, Bus.ticks]

/-- A read of memory. -/
@[simp] theorem mr_live (a : Word) (s : State) :
    (mr a s).live = s.live.bind fun b => (b.tick (isContended a) 3).map (Bus.record .mr a (s.byteAt a)) := by
  simp [mr, Option.map_bind]

/-- A write of memory. -/
@[simp] theorem mw_live (a : Word) (v : Byte) (s : State) :
    (mw a v s).live = s.live.bind fun b => (b.tick (isContended a) 3).map (Bus.record .mw a v) := by
  have h : ∀ u : State, (logEvent .mw a v
      (if u.isReadOnly a then u else { u with mem := u.mem.write a.toNat v })).live
      = u.live.map (Bus.record .mw a v) := by
    intro u; rw [logEvent_live]; split <;> rfl
  unfold mw
  rw [h, contend_one_live, Option.map_bind]; rfl

/-- An opcode fetch. -/
@[simp] theorem m1_live (s : State) :
    (m1 s).live = s.live.bind fun b =>
      (b.tick (isContended s.cpu.pc) 4).map (Bus.record .m1 s.cpu.pc (s.byteAt s.cpu.pc)) := by
  simp [m1, Option.map_bind]

@[simp] theorem mrPc_live (s : State) :
    (mrPc s).live = s.live.bind fun b =>
      (b.tick (isContended s.cpu.pc) 3).map (Bus.record .mr s.cpu.pc (s.byteAt s.cpu.pc)) := by
  simp [mrPc]

/-- A port read. -/
@[simp] theorem ior_live (p : Word) (s : State) :
    (ior p s).live = s.live.bind fun b => (b.portCycle p).map (Bus.record .ior p (portIn p s)) := by
  simp [ior, Option.map_bind]

/-- A port write. -/
@[simp] theorem iow_live (p : Word) (v : Byte) (s : State) :
    (iow p v s).live = s.live.bind fun b => (b.portCycle p).map (Bus.record .iow p v) := by
  simp [iow, Option.map_bind]

@[simp] theorem pushByte_live (v : Byte) (s : State) :
    (pushByte v s).live = s.live.bind fun b =>
      (b.tick (isContended (s.cpu.sp - 1)) 3).map (Bus.record .mw (s.cpu.sp - 1) v) := by
  simp [pushByte]

@[simp] theorem popByte_live (s : State) :
    (popByte s).live = s.live.bind fun b =>
      (b.tick (isContended s.cpu.sp) 3).map (Bus.record .mr s.cpu.sp (s.byteAt s.cpu.sp)) := by
  simp [popByte]

@[simp] theorem jumpTo_live (w : Word) (s : State) : (jumpTo w s).live = s.live := rfl

/-! ### Playing a schedule -/

theorem play_nil (rd : Word → Byte) : play rd [] = fun b => some b := rfl

theorem play_cons (rd : Word → Byte) (x : Act) (rest : List Act) :
    play rd (x :: rest) = fun b => (x.play rd b).bind (play rd rest) := rfl

theorem play_append (rd : Word → Byte) (xs ys : List Act) :
    play rd (xs ++ ys) = fun b => (play rd xs b).bind (play rd ys) := by
  induction xs with
  | nil => rfl
  | cons x rest ih => funext b; simp only [List.cons_append, play_cons, ih, Option.bind_assoc]

/-! ### From a meaning to a statement -/

theorem outcome_of_live_some {u : State} {b : Bus} (h : u.live = some b) :
    outcome u = .next { cpu := u.cpu, mem := u.mem, roFlips := u.roFlips, t := b.time, fault := none, trace := b.trace } := by
  obtain ⟨hf, ht, htr⟩ := State.live_eq_some h
  obtain ⟨_, _, _, _, _, _⟩ := u
  simp only at hf ht htr
  subst hf ht htr
  rfl

theorem outcome_of_live_none {u : State} (h : u.live = none) : outcome u = .fault .contentionOverrun := by
  rw [outcome, State.live_eq_none h]

/-- A meaning that ends in `outcome u` runs as its schedule when u's registers, memory, map and live bus are those the
schedule leaves. -/
theorem runsAs_of {i : Instr} {s : State} {c : Cpu} (u : State) (hx : exec i s = outcome u)
    (hl : s.fault = none → u.live = s.plays (cycles i s))
    (hc : ∀ b, s.fault = none → s.plays (cycles i s) = some b → u.cpu = c ∧ u.mem = s.memAfter (cycles i s))
    (hr : u.roFlips = s.roFlips) : RunsAs i s c := by
  intro hf
  refine ⟨fun b hb => ?_, fun hn => ?_⟩
  · obtain ⟨h1, h2⟩ := hc b hf hb
    rw [hx, outcome_of_live_some ((hl hf).trans hb), h1, h2, hr]
    rfl
  · rw [hx, outcome_of_live_none ((hl hf).trans hn)]

end Sys2Proof.Machine
end

