-- ==== Sys2Proof/Laws/Bytes.lean ====
section
/-! SUPPORT. Halves and pairs, addresses a few bytes apart, and the refresh register. -/

namespace Sys2Proof.Machine

@[simp] theorem hiByte_join (h l : Byte) : hiByte (join h l) = h := by
  apply BitVec.eq_of_getLsbD_eq
  intro i hi
  simp only [hiByte, join, BitVec.getLsbD_extractLsb', BitVec.getLsbD_append]
  rw [if_neg (by omega), show 8 + i - 8 = i by omega]
  simp [hi]

@[simp] theorem loByte_join (h l : Byte) : loByte (join h l) = l := by
  apply BitVec.eq_of_getLsbD_eq
  intro i hi
  simp only [loByte, join, BitVec.getLsbD_extractLsb', BitVec.getLsbD_append]
  rw [if_pos (by omega)]
  simp [hi]

@[simp] theorem join_hiByte_loByte (w : Word) : join (hiByte w) (loByte w) = w := by
  apply BitVec.eq_of_getLsbD_eq
  intro i hi
  simp only [join, hiByte, loByte, BitVec.getLsbD_append, BitVec.getLsbD_extractLsb']
  by_cases h : i < 8
  · simp [h]
  · rw [if_neg h, show 8 + (i - 8) = i by omega]; simp; omega

/-- The address of an (XY+d) form as rule R140 says it: the pair plus the signed displacement, modulo 65536. -/
theorem indexAddr_eq (w : Word) (d : Byte) : BitVec.ofInt 16 ((w.toNat : Int) + d.toInt) = w + sext8 d := by
  apply BitVec.eq_of_toInt_eq
  rw [BitVec.toInt_ofInt, BitVec.toInt_add, sext8, BitVec.toInt_signExtend_of_le (by decide),
    show (2 : Nat) ^ 16 = 65536 from rfl]
  have h : (w.toNat : Int) = w.toInt ∨ (w.toNat : Int) = w.toInt + 65536 := by
    have := BitVec.toInt_eq_toNat_cond w
    split at this <;> omega
  rcases h with h | h <;> rw [h]
  rw [show w.toInt + 65536 + d.toInt = (w.toInt + d.toInt) + 65536 by ring]
  simpa using Int.add_bmod_right (w.toInt + d.toInt) 65536

theorem bumpRefresh_eq (r : Byte) : bumpRefresh r = refreshed 1 r := by revert r; decide

theorem refreshed_refreshed_one (r : Byte) : refreshed 1 (refreshed 1 r) = refreshed 2 r := by revert r; decide

/-! ### Register reads behind a fetch -/

theorem Cpu.getR_fetched (c : Cpu) (x : Byte) (p : Word) (r : Reg8) :
    Cpu.getR r { c with r := x, pc := p } = c.getR r := by cases r <;> rfl

theorem Cpu.getRp_fetched (c : Cpu) (x : Byte) (p : Word) (rr : Rp) :
    Cpu.getRp rr { c with r := x, pc := p } = c.getRp rr := by cases rr <;> rfl

theorem Cpu.getRp2_fetched (c : Cpu) (x : Byte) (p : Word) (qq : Rp2) :
    Cpu.getRp2 qq { c with r := x, pc := p } = c.getRp2 qq := by cases qq <;> rfl

theorem Cpu.getXy_fetched (c : Cpu) (x : Byte) (p : Word) (i : XY) :
    Cpu.getXy i { c with r := x, pc := p } = c.getXy i := by cases i <;> rfl

theorem Cpu.getHalf_fetched (c : Cpu) (x : Byte) (p : Word) (i : XY) (k : Half) :
    Cpu.getHalf i k { c with r := x, pc := p } = c.getHalf i k := by cases i <;> cases k <;> rfl

theorem Cpu.getRx_fetched (c : Cpu) (x : Byte) (p : Word) (i : XY) (r : Reg8) :
    Cpu.getRx i r { c with r := x, pc := p } = c.getRx i r := by cases i <;> cases r <;> rfl

theorem Cpu.getRpXY_fetched (c : Cpu) (x : Byte) (p : Word) (i : XY) (rr : RpXY) :
    Cpu.getRpXY i rr { c with r := x, pc := p } = c.getRpXY i rr := by cases i <;> cases rr <;> rfl

/-! ### Registers read back -/

theorem Cpu.getR_setR (c : Cpu) (r k : Reg8) (v : Byte) :
    (c.setR r v).getR k = if k = r then v else c.getR k := by cases r <;> cases k <;> rfl

theorem Cpu.getRp_setRp (c : Cpu) (rr : Rp) (w : Word) : (c.setRp rr w).getRp rr = w := by
  cases rr <;> simp [Cpu.getRp, Cpu.setRp, Cpu.bc, Cpu.de, Cpu.hl, Cpu.setBc, Cpu.setDe, Cpu.setHl]

theorem Cpu.getHalf_setHalf (c : Cpu) (i : XY) (k m : Half) (v : Byte) :
    (c.setHalf i k v).getHalf i m = if m = k then v else c.getHalf i m := by
  cases i <;> cases k <;> cases m <;> simp [Cpu.getHalf, Cpu.setHalf, Cpu.getXy, Cpu.setXy]

end Sys2Proof.Machine
end

