-- ==== Sys2Proof/Laws/Memory.lean ====
section
/-! SUPPORT. Memory and the read-only map: reading after writing, what a write leaves alone, and the canonical forms. -/

namespace Sys2Proof.Machine

/-! ### Reading and writing one byte -/

theorem Memory.read_cons (a b : Nat) (v : Byte) (rest : Memory) (h : v = Memory.unlisted → Memory.read rest a = v) :
    Memory.read (Memory.cons a v rest) b = if a = b then v else Memory.read rest b := by
  unfold Memory.cons
  split
  · next hv => split
               · next hab => rw [← hab, h hv]
               · rfl
  · rfl

theorem Memory.read_of_forall_lt {m : Memory} {a : Nat} (h : ∀ x ∈ m, a < x.1) : m.read a = Memory.unlisted := by
  induction m with
  | nil => rfl
  | cons p rest ih =>
    obtain ⟨k, v⟩ := p
    have hk : a < k := h (k, v) (by simp)
    rw [Memory.read, if_neg (by omega)]
    exact ih fun x hx => h x (by simp [hx])

/-- Reading another address is not changed by a write, whatever the list holds. -/
theorem Memory.read_write_of_ne {a b : Nat} (hab : b ≠ a) (m : Memory) (v : Byte) :
    (m.write a v).read b = m.read b := by
  have hc : ∀ rest : Memory, Memory.read (Memory.cons a v rest) b = Memory.read rest b := by
    intro rest
    unfold Memory.cons
    split
    · rfl
    · rw [Memory.read, if_neg (Ne.symm hab)]
  induction m with
  | nil => exact hc []
  | cons p rest ih =>
    obtain ⟨k, w⟩ := p
    rw [Memory.write]
    split
    · exact hc _
    · split
      · next h => rw [hc, Memory.read, if_neg (h ▸ Ne.symm hab)]
      · rw [Memory.read, Memory.read, ih]

/-- Reading back a byte written. -/
theorem Memory.read_write_self {m : Memory} (h : m.wf) (a : Nat) (v : Byte) : (m.write a v).read a = v := by
  obtain ⟨hp, -⟩ := h
  induction m with
  | nil => rw [Memory.write, Memory.read_cons _ _ _ _ (fun hv => by rw [hv]; rfl), if_pos rfl]
  | cons p rest ih =>
    obtain ⟨k, w⟩ := p
    obtain ⟨hk, hr⟩ := List.pairwise_cons.mp hp
    rw [Memory.write]
    split
    · next hlt =>
      rw [Memory.read_cons, if_pos rfl]
      intro hv
      rw [hv]
      exact Memory.read_of_forall_lt fun x hx => by
        rcases List.mem_cons.mp hx with rfl | hx
        · exact hlt
        · exact lt_trans hlt (hk x hx)
    · split
      · next heq =>
        rw [Memory.read_cons, if_pos rfl]
        intro hv
        rw [hv]
        exact Memory.read_of_forall_lt fun x hx => heq ▸ hk x hx
      · next hne =>
        rw [Memory.read, if_neg (Ne.symm hne)]
        exact ih hr

theorem Memory.mem_write {m : Memory} {a : Nat} {v : Byte} {x : Host.Cell} (h : x ∈ m.write a v) :
    (x = (a, v) ∧ v ≠ Memory.unlisted) ∨ x ∈ m := by
  have hc : ∀ rest : Memory, x ∈ Memory.cons a v rest → (x = (a, v) ∧ v ≠ Memory.unlisted) ∨ x ∈ rest := by
    intro rest hx
    unfold Memory.cons at hx
    split at hx
    · exact .inr hx
    · next hv =>
      rcases List.mem_cons.mp hx with hx | hx
      · exact .inl ⟨hx, hv⟩
      · exact .inr hx
  induction m with
  | nil => simpa using hc [] h
  | cons p rest ih =>
    obtain ⟨k, w⟩ := p
    rw [Memory.write] at h
    split at h
    · exact hc _ h
    · split at h
      · rcases hc _ h with h | h
        · exact .inl h
        · exact .inr (List.mem_cons_of_mem _ h)
      · rcases List.mem_cons.mp h with h | h
        · exact .inr (h ▸ List.mem_cons_self)
        · rcases ih h with h | h
          · exact .inl h
          · exact .inr (List.mem_cons_of_mem _ h)

/-- A write keeps the canonical form. -/
theorem Memory.write_wf {m : Memory} (h : m.wf) {a : Nat} (ha : a < 65536) (v : Byte) : (m.write a v).wf := by
  refine ⟨?_, fun x hx => ?_⟩
  · obtain ⟨hp, -⟩ := h
    have hc : ∀ rest : Memory, rest.Pairwise (fun x y => x.1 < y.1) → (∀ x ∈ rest, a < x.1) →
        (Memory.cons a v rest).Pairwise (fun x y => x.1 < y.1) := by
      intro rest hr hl
      unfold Memory.cons
      split
      · exact hr
      · exact List.pairwise_cons.mpr ⟨hl, hr⟩
    induction m with
    | nil => exact hc [] List.Pairwise.nil (by simp)
    | cons p rest ih =>
      obtain ⟨k, w⟩ := p
      obtain ⟨hk, hr⟩ := List.pairwise_cons.mp hp
      rw [Memory.write]
      split
      · next hlt =>
        refine hc _ hp fun x hx => ?_
        rcases List.mem_cons.mp hx with rfl | hx
        · exact hlt
        · exact lt_trans hlt (hk x hx)
      · split
        · next heq => exact hc _ hr fun x hx => heq ▸ hk x hx
        · next hnlt hne =>
          refine List.pairwise_cons.mpr ⟨fun x hx => ?_, ih hr⟩
          rcases Memory.mem_write hx with ⟨rfl, -⟩ | hx
          · show k < a
            omega
          · exact hk x hx
  · rcases Memory.mem_write hx with ⟨rfl, hv⟩ | hx
    · exact ⟨ha, hv⟩
    · exact h.2 x hx

/-! ### Bytes put past the read-only map -/

theorem loadBytes_wf {s : State} (h : s.mem.wf) (a : Nat) (bs : List Byte) : (loadBytes a bs s).mem.wf := by
  induction bs generalizing a s with
  | nil => exact h
  | cons v rest ih =>
    rw [loadBytes]
    apply ih
    split
    · next ha => exact Memory.write_wf h (by omega) v
    · exact h

theorem placeBytes_wf {s : State} (h : s.mem.wf) (a : Word) (bs : List Byte) : (placeBytes a bs s).mem.wf := by
  induction bs generalizing a s with
  | nil => exact h
  | cons v rest ih => exact ih (Memory.write_wf h a.isLt v) (a + 1)

theorem loadBytes_roFlips (a : Nat) (bs : List Byte) (s : State) : (loadBytes a bs s).roFlips = s.roFlips := by
  induction bs generalizing a s with
  | nil => rfl
  | cons v rest ih => rw [loadBytes, ih]; split <;> rfl

theorem clearRam_wf {s : State} (h : s.mem.wf) : (clearRam s).mem.wf :=
  ⟨h.1.filter _, fun x hx => h.2 x (List.mem_of_mem_filter hx)⟩

theorem Memory.read_filter {m : Memory} (h : m.wf) (p : Host.Cell → Bool) (q : Nat → Bool)
    (hpq : ∀ x ∈ m, p x = q x.1) (a : Nat) :
    Memory.read (m.filter p) a = if q a then m.read a else Memory.unlisted := by
  obtain ⟨hp, -⟩ := h
  induction m with
  | nil => simp [Memory.read]
  | cons c rest ih =>
    obtain ⟨k, v⟩ := c
    obtain ⟨hk, hr⟩ := List.pairwise_cons.mp hp
    have ih := ih (fun x hx => hpq x (List.mem_cons_of_mem _ hx)) hr
    have hpk : p (k, v) = q k := hpq (k, v) List.mem_cons_self
    rw [List.filter_cons]
    by_cases hka : k = a
    · subst hka
      have hn : Memory.read rest k = Memory.unlisted := Memory.read_of_forall_lt fun x hx => hk x hx
      cases hq : q k
      · simp [hpk, hq, ih]
      · simp [hpk, hq, Memory.read]
    · cases hq : q k
      · simp [hpk, hq, ih, Memory.read, hka]
      · simp [hpk, hq, ih, Memory.read, hka]

/-! ### The read-only map -/

theorem mem_insertAddr (a x : Nat) (l : List Nat) : x ∈ insertAddr a l ↔ x = a ∨ x ∈ l := by
  induction l with
  | nil => simp [insertAddr]
  | cons k rest ih =>
    rw [insertAddr]
    split
    · simp
    · split
      · next h => simp [h]
      · simp only [List.mem_cons, ih]; tauto

theorem insertAddr_wf {l : List Nat} (h : roFlipsWf l) {a : Nat} (ha : a < 65536) : roFlipsWf (insertAddr a l) := by
  refine ⟨?_, fun x hx => ?_⟩
  · obtain ⟨hp, -⟩ := h
    induction l with
    | nil => simp [insertAddr]
    | cons k rest ih =>
      obtain ⟨hk, hr⟩ := List.pairwise_cons.mp hp
      rw [insertAddr]
      split
      · next hlt =>
        refine List.pairwise_cons.mpr ⟨fun x hx => ?_, hp⟩
        rcases List.mem_cons.mp hx with rfl | hx
        · exact hlt
        · exact lt_trans hlt (hk x hx)
      · split
        · exact hp
        · refine List.pairwise_cons.mpr ⟨fun x hx => ?_, ih hr⟩
          rcases (mem_insertAddr a x rest).mp hx with rfl | hx
          · omega
          · exact hk x hx
  · rcases (mem_insertAddr a x l).mp hx with rfl | hx
    · exact ha
    · exact h.2 x hx

theorem setReadOnlyIn_wf {l : List Nat} (h : roFlipsWf l) (a : Word) (b : Bool) : roFlipsWf (setReadOnlyIn l a b) := by
  unfold setReadOnlyIn
  split
  · exact ⟨h.1.filter _, fun x hx => h.2 x (List.mem_of_mem_filter hx)⟩
  · exact insertAddr_wf h a.isLt

/-- The read-only map behind a host's change of one bit. -/
theorem isReadOnlyIn_setReadOnlyIn (l : List Nat) (a x : Word) (b : Bool) :
    isReadOnlyIn (setReadOnlyIn l a b) x = if x = a then b else isReadOnlyIn l x := by
  have hxa : x = a ↔ x.toNat = a.toNat := ⟨fun h => h ▸ rfl, BitVec.eq_of_toNat_eq⟩
  unfold setReadOnlyIn isReadOnlyIn
  by_cases hx : x = a
  · subst hx
    split
    · next h => simp [h]
    · next h =>
      have : (insertAddr x.toNat l).contains x.toNat = true := by simp [mem_insertAddr]
      rw [this, if_pos rfl]
      cases b <;> cases hr : readOnlyAtCreation x <;> simp_all
  · have hn : x.toNat ≠ a.toNat := fun h => hx (hxa.mpr h)
    rw [if_neg hx]
    split
    · congr 1
      rw [Bool.eq_iff_iff]
      simp [hn]
    · congr 1
      rw [Bool.eq_iff_iff]
      simp [mem_insertAddr, hn]

/-! ### The memory operations of a step keep the canonical form -/

theorem mw_wf {s : State} (h : s.mem.wf) (a : Word) (v : Byte) : (mw a v s).mem.wf := by
  rw [mw_mem]
  split
  · exact h
  · exact Memory.write_wf h a.isLt v

theorem pushByte_wf {s : State} (h : s.mem.wf) (v : Byte) : (pushByte v s).mem.wf := mw_wf (s := s.upd _) h _ _

theorem push_wf {s : State} (h : s.mem.wf) (w : Word) : (push w s).mem.wf := pushByte_wf (pushByte_wf h _) _

end Sys2Proof.Machine
end

