-- ==== Sys2Proof/Laws/PerInstr.lean ====
section
/-! SUPPORT. A property of every instruction as syntax, one lemma per constructor. -/

namespace Sys2Proof.Laws.EncodedLength

open Sys2Proof

/-- An instruction takes at least one byte and is read from at most four (30_encoding.md rules R130, R148); `decode`
takes no more than `encode` writes. -/
def Statement (i : Instr) : Prop :=
  1 ≤ i.byteLength ∧ i.byteLength ≤ (encode i).length ∧ (encode i).length ≤ 4

/-- The statement from its three bounds, evaluated. -/
theorem of_bounds {i : Instr}
    (h : ((1).ble i.byteLength && (i.byteLength).ble (encode i).length && ((encode i).length).ble 4) = true) :
    Statement i := by
  simp only [Bool.and_eq_true, Nat.ble_eq] at h
  exact ⟨h.1.1, h.1.2, h.2⟩

theorem ldRR (r : Reg8) (r2 : Reg8) : Statement (.ldRR r r2) := of_bounds rfl
theorem ldRN (r : Reg8) (n : Byte) : Statement (.ldRN r n) := of_bounds rfl
theorem ldRMhl (r : Reg8) : Statement (.ldRMhl r) := of_bounds rfl
theorem ldMhlR (r : Reg8) : Statement (.ldMhlR r) := of_bounds rfl
theorem ldMhlN (n : Byte) : Statement (.ldMhlN n) := of_bounds rfl
theorem ldAMbc : Statement .ldAMbc := of_bounds rfl
theorem ldAMde : Statement .ldAMde := of_bounds rfl
theorem ldAMnn (nn : Word) : Statement (.ldAMnn nn) := of_bounds rfl
theorem ldMbcA : Statement .ldMbcA := of_bounds rfl
theorem ldMdeA : Statement .ldMdeA := of_bounds rfl
theorem ldMnnA (nn : Word) : Statement (.ldMnnA nn) := of_bounds rfl
theorem ldAI : Statement .ldAI := of_bounds rfl
theorem ldAR : Statement .ldAR := of_bounds rfl
theorem ldIA : Statement .ldIA := of_bounds rfl
theorem ldRA : Statement .ldRA := of_bounds rfl
theorem ldRpNn (rr : Rp) (nn : Word) : Statement (.ldRpNn rr nn) := of_bounds rfl
theorem ldHlMnn (nn : Word) : Statement (.ldHlMnn nn) := of_bounds rfl
theorem ldMnnHl (nn : Word) : Statement (.ldMnnHl nn) := of_bounds rfl
theorem ldRpMnn (rr : Rp) (nn : Word) : Statement (.ldRpMnn rr nn) := of_bounds rfl
theorem ldMnnRp (rr : Rp) (nn : Word) : Statement (.ldMnnRp rr nn) := of_bounds rfl
theorem ldSpHl : Statement .ldSpHl := of_bounds rfl
theorem pushQq (qq : Rp2) : Statement (.pushQq qq) := of_bounds rfl
theorem popQq (qq : Rp2) : Statement (.popQq qq) := of_bounds rfl
theorem exDeHl : Statement .exDeHl := of_bounds rfl
theorem exMspHl : Statement .exMspHl := of_bounds rfl
theorem exAfAf : Statement .exAfAf := of_bounds rfl
theorem exx : Statement .exx := of_bounds rfl
theorem addAR (r : Reg8) : Statement (.addAR r) := of_bounds rfl
theorem adcAR (r : Reg8) : Statement (.adcAR r) := of_bounds rfl
theorem subR (r : Reg8) : Statement (.subR r) := of_bounds rfl
theorem sbcAR (r : Reg8) : Statement (.sbcAR r) := of_bounds rfl
theorem andR (r : Reg8) : Statement (.andR r) := of_bounds rfl
theorem xorR (r : Reg8) : Statement (.xorR r) := of_bounds rfl
theorem orR (r : Reg8) : Statement (.orR r) := of_bounds rfl
theorem cpR (r : Reg8) : Statement (.cpR r) := of_bounds rfl
theorem addAN (n : Byte) : Statement (.addAN n) := of_bounds rfl
theorem adcAN (n : Byte) : Statement (.adcAN n) := of_bounds rfl
theorem subN (n : Byte) : Statement (.subN n) := of_bounds rfl
theorem sbcAN (n : Byte) : Statement (.sbcAN n) := of_bounds rfl
theorem andN (n : Byte) : Statement (.andN n) := of_bounds rfl
theorem xorN (n : Byte) : Statement (.xorN n) := of_bounds rfl
theorem orN (n : Byte) : Statement (.orN n) := of_bounds rfl
theorem cpN (n : Byte) : Statement (.cpN n) := of_bounds rfl
theorem addAMhl : Statement .addAMhl := of_bounds rfl
theorem adcAMhl : Statement .adcAMhl := of_bounds rfl
theorem subMhl : Statement .subMhl := of_bounds rfl
theorem sbcAMhl : Statement .sbcAMhl := of_bounds rfl
theorem andMhl : Statement .andMhl := of_bounds rfl
theorem xorMhl : Statement .xorMhl := of_bounds rfl
theorem orMhl : Statement .orMhl := of_bounds rfl
theorem cpMhl : Statement .cpMhl := of_bounds rfl
theorem incR (r : Reg8) : Statement (.incR r) := of_bounds rfl
theorem incMhl : Statement .incMhl := of_bounds rfl
theorem decR (r : Reg8) : Statement (.decR r) := of_bounds rfl
theorem decMhl : Statement .decMhl := of_bounds rfl
theorem daa : Statement .daa := of_bounds rfl
theorem cpl : Statement .cpl := of_bounds rfl
theorem neg (y : Fin 8) : Statement (.neg y) := of_bounds rfl
theorem scf : Statement .scf := of_bounds rfl
theorem ccf : Statement .ccf := of_bounds rfl
theorem addHlRp (rr : Rp) : Statement (.addHlRp rr) := of_bounds rfl
theorem adcHlRp (rr : Rp) : Statement (.adcHlRp rr) := of_bounds rfl
theorem sbcHlRp (rr : Rp) : Statement (.sbcHlRp rr) := of_bounds rfl
theorem incRp (rr : Rp) : Statement (.incRp rr) := of_bounds rfl
theorem decRp (rr : Rp) : Statement (.decRp rr) := of_bounds rfl
theorem rlca : Statement .rlca := of_bounds rfl
theorem rrca : Statement .rrca := of_bounds rfl
theorem rla : Statement .rla := of_bounds rfl
theorem rra : Statement .rra := of_bounds rfl
theorem rlcR (r : Reg8) : Statement (.rlcR r) := of_bounds rfl
theorem rrcR (r : Reg8) : Statement (.rrcR r) := of_bounds rfl
theorem rlR (r : Reg8) : Statement (.rlR r) := of_bounds rfl
theorem rrR (r : Reg8) : Statement (.rrR r) := of_bounds rfl
theorem slaR (r : Reg8) : Statement (.slaR r) := of_bounds rfl
theorem sraR (r : Reg8) : Statement (.sraR r) := of_bounds rfl
theorem sllR (r : Reg8) : Statement (.sllR r) := of_bounds rfl
theorem srlR (r : Reg8) : Statement (.srlR r) := of_bounds rfl
theorem rlcMhl : Statement .rlcMhl := of_bounds rfl
theorem rrcMhl : Statement .rrcMhl := of_bounds rfl
theorem rlMhl : Statement .rlMhl := of_bounds rfl
theorem rrMhl : Statement .rrMhl := of_bounds rfl
theorem slaMhl : Statement .slaMhl := of_bounds rfl
theorem sraMhl : Statement .sraMhl := of_bounds rfl
theorem sllMhl : Statement .sllMhl := of_bounds rfl
theorem srlMhl : Statement .srlMhl := of_bounds rfl
theorem bitR (b : Fin 8) (r : Reg8) : Statement (.bitR b r) := of_bounds rfl
theorem bitMhl (b : Fin 8) : Statement (.bitMhl b) := of_bounds rfl
theorem resR (b : Fin 8) (r : Reg8) : Statement (.resR b r) := of_bounds rfl
theorem resMhl (b : Fin 8) : Statement (.resMhl b) := of_bounds rfl
theorem setR (b : Fin 8) (r : Reg8) : Statement (.setR b r) := of_bounds rfl
theorem setMhl (b : Fin 8) : Statement (.setMhl b) := of_bounds rfl
theorem rld : Statement .rld := of_bounds rfl
theorem rrd : Statement .rrd := of_bounds rfl
theorem jp (nn : Word) : Statement (.jp nn) := of_bounds rfl
theorem jpCc (cc : Cond) (nn : Word) : Statement (.jpCc cc nn) := of_bounds rfl
theorem jr (e : Byte) : Statement (.jr e) := of_bounds rfl
theorem jrCc (cc : JrCond) (e : Byte) : Statement (.jrCc cc e) := of_bounds rfl
theorem djnz (e : Byte) : Statement (.djnz e) := of_bounds rfl
theorem jpHl : Statement .jpHl := of_bounds rfl
theorem call (nn : Word) : Statement (.call nn) := of_bounds rfl
theorem callCc (cc : Cond) (nn : Word) : Statement (.callCc cc nn) := of_bounds rfl
theorem ret : Statement .ret := of_bounds rfl
theorem retCc (cc : Cond) : Statement (.retCc cc) := of_bounds rfl
theorem retn (y : Fin 8) : Statement (.retn y) := of_bounds rfl
theorem reti : Statement .reti := of_bounds rfl
theorem rst (y : Fin 8) : Statement (.rst y) := of_bounds rfl
theorem ldi : Statement .ldi := of_bounds rfl
theorem ldd : Statement .ldd := of_bounds rfl
theorem ldir : Statement .ldir := of_bounds rfl
theorem lddr : Statement .lddr := of_bounds rfl
theorem cpi : Statement .cpi := of_bounds rfl
theorem cpd : Statement .cpd := of_bounds rfl
theorem cpir : Statement .cpir := of_bounds rfl
theorem cpdr : Statement .cpdr := of_bounds rfl
theorem ini : Statement .ini := of_bounds rfl
theorem ind : Statement .ind := of_bounds rfl
theorem inir : Statement .inir := of_bounds rfl
theorem indr : Statement .indr := of_bounds rfl
theorem outi : Statement .outi := of_bounds rfl
theorem outd : Statement .outd := of_bounds rfl
theorem otir : Statement .otir := of_bounds rfl
theorem otdr : Statement .otdr := of_bounds rfl
theorem inAMn (n : Byte) : Statement (.inAMn n) := of_bounds rfl
theorem inRC (r : Reg8) : Statement (.inRC r) := of_bounds rfl
theorem inFC : Statement .inFC := of_bounds rfl
theorem outMnA (n : Byte) : Statement (.outMnA n) := of_bounds rfl
theorem outCR (r : Reg8) : Statement (.outCR r) := of_bounds rfl
theorem outC0 : Statement .outC0 := of_bounds rfl
theorem nop : Statement .nop := of_bounds rfl
theorem halt : Statement .halt := of_bounds rfl
theorem di : Statement .di := of_bounds rfl
theorem ei : Statement .ei := of_bounds rfl
theorem im0 (y : Fin 8) : Statement (.im0 y) := of_bounds rfl
theorem im1 (y : Fin 8) : Statement (.im1 y) := of_bounds rfl
theorem im2 (y : Fin 8) : Statement (.im2 y) := of_bounds rfl
theorem edNop (o : Byte) : Statement (.edNop o) := of_bounds rfl
theorem ldXyNn (x : XY) (nn : Word) : Statement (.ldXyNn x nn) := of_bounds rfl
theorem ldXyMnn (x : XY) (nn : Word) : Statement (.ldXyMnn x nn) := of_bounds rfl
theorem ldMnnXy (x : XY) (nn : Word) : Statement (.ldMnnXy x nn) := of_bounds rfl
theorem addXyRp (x : XY) (rr : RpXY) : Statement (.addXyRp x rr) := of_bounds rfl
theorem incXy (x : XY) : Statement (.incXy x) := of_bounds rfl
theorem decXy (x : XY) : Statement (.decXy x) := of_bounds rfl
theorem incHalf (x : XY) (k : Half) : Statement (.incHalf x k) := of_bounds rfl
theorem decHalf (x : XY) (k : Half) : Statement (.decHalf x k) := of_bounds rfl
theorem ldHalfN (x : XY) (k : Half) (n : Byte) : Statement (.ldHalfN x k n) := of_bounds rfl
theorem incMxy (x : XY) (d : Byte) : Statement (.incMxy x d) := of_bounds rfl
theorem decMxy (x : XY) (d : Byte) : Statement (.decMxy x d) := of_bounds rfl
theorem ldMxyN (x : XY) (d : Byte) (n : Byte) : Statement (.ldMxyN x d n) := of_bounds rfl
theorem ldRRHalf (x : XY) (r : Reg8) (r2 : Reg8) : Statement (.ldRRHalf x r r2) := of_bounds rfl
theorem ldRMxy (x : XY) (r : Reg8) (d : Byte) : Statement (.ldRMxy x r d) := of_bounds rfl
theorem ldMxyR (x : XY) (r : Reg8) (d : Byte) : Statement (.ldMxyR x r d) := of_bounds rfl
theorem pushXy (x : XY) : Statement (.pushXy x) := of_bounds rfl
theorem popXy (x : XY) : Statement (.popXy x) := of_bounds rfl
theorem exMspXy (x : XY) : Statement (.exMspXy x) := of_bounds rfl
theorem jpXy (x : XY) : Statement (.jpXy x) := of_bounds rfl
theorem ldSpXy (x : XY) : Statement (.ldSpXy x) := of_bounds rfl
theorem addAHalf (x : XY) (k : Half) : Statement (.addAHalf x k) := of_bounds rfl
theorem adcAHalf (x : XY) (k : Half) : Statement (.adcAHalf x k) := of_bounds rfl
theorem subHalf (x : XY) (k : Half) : Statement (.subHalf x k) := of_bounds rfl
theorem sbcAHalf (x : XY) (k : Half) : Statement (.sbcAHalf x k) := of_bounds rfl
theorem andHalf (x : XY) (k : Half) : Statement (.andHalf x k) := of_bounds rfl
theorem xorHalf (x : XY) (k : Half) : Statement (.xorHalf x k) := of_bounds rfl
theorem orHalf (x : XY) (k : Half) : Statement (.orHalf x k) := of_bounds rfl
theorem cpHalf (x : XY) (k : Half) : Statement (.cpHalf x k) := of_bounds rfl
theorem addAMxy (x : XY) (d : Byte) : Statement (.addAMxy x d) := of_bounds rfl
theorem adcAMxy (x : XY) (d : Byte) : Statement (.adcAMxy x d) := of_bounds rfl
theorem subMxy (x : XY) (d : Byte) : Statement (.subMxy x d) := of_bounds rfl
theorem sbcAMxy (x : XY) (d : Byte) : Statement (.sbcAMxy x d) := of_bounds rfl
theorem andMxy (x : XY) (d : Byte) : Statement (.andMxy x d) := of_bounds rfl
theorem xorMxy (x : XY) (d : Byte) : Statement (.xorMxy x d) := of_bounds rfl
theorem orMxy (x : XY) (d : Byte) : Statement (.orMxy x d) := of_bounds rfl
theorem cpMxy (x : XY) (d : Byte) : Statement (.cpMxy x d) := of_bounds rfl
theorem rlcMxy (x : XY) (d : Byte) (cp : Option Reg8) : Statement (.rlcMxy x d cp) := of_bounds rfl
theorem rrcMxy (x : XY) (d : Byte) (cp : Option Reg8) : Statement (.rrcMxy x d cp) := of_bounds rfl
theorem rlMxy (x : XY) (d : Byte) (cp : Option Reg8) : Statement (.rlMxy x d cp) := of_bounds rfl
theorem rrMxy (x : XY) (d : Byte) (cp : Option Reg8) : Statement (.rrMxy x d cp) := of_bounds rfl
theorem slaMxy (x : XY) (d : Byte) (cp : Option Reg8) : Statement (.slaMxy x d cp) := of_bounds rfl
theorem sraMxy (x : XY) (d : Byte) (cp : Option Reg8) : Statement (.sraMxy x d cp) := of_bounds rfl
theorem sllMxy (x : XY) (d : Byte) (cp : Option Reg8) : Statement (.sllMxy x d cp) := of_bounds rfl
theorem srlMxy (x : XY) (d : Byte) (cp : Option Reg8) : Statement (.srlMxy x d cp) := of_bounds rfl
theorem bitMxy (x : XY) (d : Byte) (b : Fin 8) (z : Fin 8) : Statement (.bitMxy x d b z) := of_bounds rfl
theorem resMxy (x : XY) (d : Byte) (b : Fin 8) (cp : Option Reg8) : Statement (.resMxy x d b cp) := of_bounds rfl
theorem setMxy (x : XY) (d : Byte) (b : Fin 8) (cp : Option Reg8) : Statement (.setMxy x d b cp) := of_bounds rfl
theorem lonePrefix (x : XY) (q : Byte) : Statement (.lonePrefix x q) := of_bounds rfl

end Sys2Proof.Laws.EncodedLength
end

