-- ==== Sys2Proof/Tests/Slice0.lean ====
section
/-! SUPPORT. The model's own tests: ill-formed terms, words written out from the encodings, the vectors of
spec/95_test_vectors.md one step at a time, and a witness for every statement that has hypotheses. -/

namespace Sys2Proof.Tests

open Sys2Proof Sys2Proof.Machine

set_option Elab.async false

/-! ### Ill-formed terms are refused -/

theorem test_wellFormed_refuses_retn_of_reti : Instr.wellFormed (.retn 1) = false := by decide
theorem test_wellFormed_refuses_im0 : Instr.wellFormed (.im0 2) = false := by decide
theorem test_wellFormed_refuses_im1 : Instr.wellFormed (.im1 0) = false := by decide
theorem test_wellFormed_refuses_im2 : Instr.wellFormed (.im2 6) = false := by decide
theorem test_wellFormed_refuses_used_ed_opcode : Instr.wellFormed (.edNop 0xA0) = false := by decide
theorem test_wellFormed_refuses_load_without_half : Instr.wellFormed (.ldRRHalf .ix .b .a) = false := by decide
theorem test_wellFormed_refuses_prefix_of_index_opcode : Instr.wellFormed (.lonePrefix .iy 0xCB) = false := by decide
theorem test_wellFormed_accepts :
    [Instr.retn 5, .im0 5, .im1 2, .im2 3, .edNop 0xFF, .ldRRHalf .ix .b .l, .lonePrefix .ix 0xDD].all Instr.wellFormed
      = true := by decide

theorem test_decode_rejects_short_lists :
    decode [] = .error .truncated ∧ decode [0xDD] = .error .truncated ∧ decode [0x01, 0x34] = .error .truncated := by
  decide +kernel

/-! ### Decoding and encoding -/

/-- The bytes decode to the instruction, and it encodes to them. -/
def reads (x : List Byte × Instr) : Bool :=
  decodeWindow (x.1.getD 0 0) (x.1.getD 1 0) (x.1.getD 2 0) (x.1.getD 3 0) == x.2 && encode x.2 == x.1

/-- Words written out from the encoding strings of spec/opcode_table.json. -/
def words1 : List (List Byte × Instr) := [
    ([0b01010011], .ldRR .d .e),
    ([0b00111110, 0b11000011], .ldRN .a 0xC3),
    ([0b01001110], .ldRMhl .c),
    ([0b01110111], .ldMhlR .a),
    ([0b00110110, 0b01011010], .ldMhlN 0x5A),
    ([0b00001010], .ldAMbc),
    ([0b00011010], .ldAMde),
    ([0b00111010, 0b00110100, 0b00010010], .ldAMnn 0x1234),
    ([0b00000010], .ldMbcA),
    ([0b00010010], .ldMdeA),
    ([0b00110010, 0b00110100, 0b00010010], .ldMnnA 0x1234),
    ([0b11101101, 0b01010111], .ldAI),
    ([0b11101101, 0b01011111], .ldAR),
    ([0b11101101, 0b01000111], .ldIA),
    ([0b11101101, 0b01001111], .ldRA),
    ([0b00000001, 0b00110100, 0b00010010], .ldRpNn .bc 0x1234) ]

/-- Words written out from the encoding strings of spec/opcode_table.json. -/
def words2 : List (List Byte × Instr) := [
    ([0b00101010, 0b00110100, 0b00010010], .ldHlMnn 0x1234),
    ([0b00100010, 0b00110100, 0b00010010], .ldMnnHl 0x1234),
    ([0b11101101, 0b01101011, 0b00110100, 0b00010010], .ldRpMnn .hl 0x1234),
    ([0b11101101, 0b01000011, 0b00110100, 0b00010010], .ldMnnRp .bc 0x1234),
    ([0b11111001], .ldSpHl),
    ([0b11110101], .pushQq .af),
    ([0b11100001], .popQq .hl),
    ([0b11101011], .exDeHl),
    ([0b11100011], .exMspHl),
    ([0b00001000], .exAfAf),
    ([0b11011001], .exx),
    ([0b10000111], .addAR .a),
    ([0b10001011], .adcAR .e),
    ([0b10010000], .subR .b),
    ([0b10011010], .sbcAR .d),
    ([0b10100111], .andR .a) ]

/-- Words written out from the encoding strings of spec/opcode_table.json. -/
def words3 : List (List Byte × Instr) := [
    ([0b10101011], .xorR .e),
    ([0b10110000], .orR .b),
    ([0b10111010], .cpR .d),
    ([0b11000110, 0b11000011], .addAN 0xC3),
    ([0b11001110, 0b01011010], .adcAN 0x5A),
    ([0b11010110, 0b11000011], .subN 0xC3),
    ([0b11011110, 0b01011010], .sbcAN 0x5A),
    ([0b11100110, 0b11000011], .andN 0xC3),
    ([0b11101110, 0b01011010], .xorN 0x5A),
    ([0b11110110, 0b11000011], .orN 0xC3),
    ([0b11111110, 0b01011010], .cpN 0x5A),
    ([0b10000110], .addAMhl),
    ([0b10001110], .adcAMhl),
    ([0b10010110], .subMhl),
    ([0b10011110], .sbcAMhl),
    ([0b10100110], .andMhl) ]

/-- Words written out from the encoding strings of spec/opcode_table.json. -/
def words4 : List (List Byte × Instr) := [
    ([0b10101110], .xorMhl),
    ([0b10110110], .orMhl),
    ([0b10111110], .cpMhl),
    ([0b00011100], .incR .e),
    ([0b00110100], .incMhl),
    ([0b00111101], .decR .a),
    ([0b00110101], .decMhl),
    ([0b00100111], .daa),
    ([0b00101111], .cpl),
    ([0b11101101, 0b01111100], .neg 7),
    ([0b00110111], .scf),
    ([0b00111111], .ccf),
    ([0b00011001], .addHlRp .de),
    ([0b11101101, 0b01111010], .adcHlRp .sp),
    ([0b11101101, 0b01100010], .sbcHlRp .hl),
    ([0b00000011], .incRp .bc) ]

/-- Words written out from the encoding strings of spec/opcode_table.json. -/
def words5 : List (List Byte × Instr) := [
    ([0b00011011], .decRp .de),
    ([0b00000111], .rlca),
    ([0b00001111], .rrca),
    ([0b00010111], .rla),
    ([0b00011111], .rra),
    ([0b11001011, 0b00000000], .rlcR .b),
    ([0b11001011, 0b00001010], .rrcR .d),
    ([0b11001011, 0b00010111], .rlR .a),
    ([0b11001011, 0b00011011], .rrR .e),
    ([0b11001011, 0b00100000], .slaR .b),
    ([0b11001011, 0b00101010], .sraR .d),
    ([0b11001011, 0b00110111], .sllR .a),
    ([0b11001011, 0b00111011], .srlR .e),
    ([0b11001011, 0b00000110], .rlcMhl),
    ([0b11001011, 0b00001110], .rrcMhl),
    ([0b11001011, 0b00010110], .rlMhl) ]

/-- Words written out from the encoding strings of spec/opcode_table.json. -/
def words6 : List (List Byte × Instr) := [
    ([0b11001011, 0b00011110], .rrMhl),
    ([0b11001011, 0b00100110], .slaMhl),
    ([0b11001011, 0b00101110], .sraMhl),
    ([0b11001011, 0b00110110], .sllMhl),
    ([0b11001011, 0b00111110], .srlMhl),
    ([0b11001011, 0b01010000], .bitR 2 .b),
    ([0b11001011, 0b01111110], .bitMhl 7),
    ([0b11001011, 0b10001111], .resR 1 .a),
    ([0b11001011, 0b10101110], .resMhl 5),
    ([0b11001011, 0b11010000], .setR 2 .b),
    ([0b11001011, 0b11111110], .setMhl 7),
    ([0b11101101, 0b01101111], .rld),
    ([0b11101101, 0b01100111], .rrd),
    ([0b11000011, 0b00110100, 0b00010010], .jp 0x1234),
    ([0b11100010, 0b00110100, 0b00010010], .jpCc .po 0x1234),
    ([0b00011000, 0b00010000], .jr 0x10) ]

/-- Words written out from the encoding strings of spec/opcode_table.json. -/
def words7 : List (List Byte × Instr) := [
    ([0b00110000, 0b11111101], .jrCc .nc 0xFD),
    ([0b00010000, 0b00010000], .djnz 0x10),
    ([0b11101001], .jpHl),
    ([0b11001101, 0b00110100, 0b00010010], .call 0x1234),
    ([0b11110100, 0b00110100, 0b00010010], .callCc .p 0x1234),
    ([0b11001001], .ret),
    ([0b11100000], .retCc .po),
    ([0b11101101, 0b01011101], .retn 3),
    ([0b11101101, 0b01001101], .reti),
    ([0b11010111], .rst 2),
    ([0b11101101, 0b10100000], .ldi),
    ([0b11101101, 0b10101000], .ldd),
    ([0b11101101, 0b10110000], .ldir),
    ([0b11101101, 0b10111000], .lddr),
    ([0b11101101, 0b10100001], .cpi),
    ([0b11101101, 0b10101001], .cpd) ]

/-- Words written out from the encoding strings of spec/opcode_table.json. -/
def words8 : List (List Byte × Instr) := [
    ([0b11101101, 0b10110001], .cpir),
    ([0b11101101, 0b10111001], .cpdr),
    ([0b11101101, 0b10100010], .ini),
    ([0b11101101, 0b10101010], .ind),
    ([0b11101101, 0b10110010], .inir),
    ([0b11101101, 0b10111010], .indr),
    ([0b11101101, 0b10100011], .outi),
    ([0b11101101, 0b10101011], .outd),
    ([0b11101101, 0b10110011], .otir),
    ([0b11101101, 0b10111011], .otdr),
    ([0b11011011, 0b01011010], .inAMn 0x5A),
    ([0b11101101, 0b01011000], .inRC .e),
    ([0b11101101, 0b01110000], .inFC),
    ([0b11010011, 0b11000011], .outMnA 0xC3),
    ([0b11101101, 0b01001001], .outCR .c),
    ([0b11101101, 0b01110001], .outC0) ]

/-- Words written out from the encoding strings of spec/opcode_table.json. -/
def words9 : List (List Byte × Instr) := [
    ([0b00000000], .nop),
    ([0b01110110], .halt),
    ([0b11110011], .di),
    ([0b11111011], .ei),
    ([0b11101101, 0b01100110], .im0 4),
    ([0b11101101, 0b01110110], .im1 6),
    ([0b11101101, 0b01111110], .im2 7),
    ([0b11101101, 0b01110111], .edNop 0x77),
    ([0b11011101, 0b00100001, 0b00110100, 0b00010010], .ldXyNn .ix 0x1234),
    ([0b11111101, 0b00101010, 0b00110100, 0b00010010], .ldXyMnn .iy 0x1234),
    ([0b11011101, 0b00100010, 0b00110100, 0b00010010], .ldMnnXy .ix 0x1234),
    ([0b11111101, 0b00001001], .addXyRp .iy .bc),
    ([0b11011101, 0b00100011], .incXy .ix),
    ([0b11111101, 0b00101011], .decXy .iy),
    ([0b11011101, 0b00100100], .incHalf .ix .high),
    ([0b11111101, 0b00101101], .decHalf .iy .low) ]

/-- Words written out from the encoding strings of spec/opcode_table.json. -/
def words10 : List (List Byte × Instr) := [
    ([0b11011101, 0b00100110, 0b01011010], .ldHalfN .ix .high 0x5A),
    ([0b11111101, 0b00110100, 0b01111110], .incMxy .iy 0x7E),
    ([0b11011101, 0b00110101, 0b11111011], .decMxy .ix 0xFB),
    ([0b11111101, 0b00110110, 0b10000101, 0b11000011], .ldMxyN .iy 0x85 0xC3),
    ([0b11011101, 0b01100111], .ldRRHalf .ix .h .a),
    ([0b11111101, 0b01111110, 0b11111011], .ldRMxy .iy .a 0xFB),
    ([0b11011101, 0b01110010, 0b10000101], .ldMxyR .ix .d 0x85),
    ([0b11111101, 0b11100101], .pushXy .iy),
    ([0b11011101, 0b11100001], .popXy .ix),
    ([0b11111101, 0b11100011], .exMspXy .iy),
    ([0b11011101, 0b11101001], .jpXy .ix),
    ([0b11111101, 0b11111001], .ldSpXy .iy),
    ([0b11011101, 0b10000100], .addAHalf .ix .high),
    ([0b11111101, 0b10001101], .adcAHalf .iy .low),
    ([0b11011101, 0b10010100], .subHalf .ix .high),
    ([0b11111101, 0b10011101], .sbcAHalf .iy .low) ]

/-- Words written out from the encoding strings of spec/opcode_table.json. -/
def words11 : List (List Byte × Instr) := [
    ([0b11011101, 0b10100100], .andHalf .ix .high),
    ([0b11111101, 0b10101101], .xorHalf .iy .low),
    ([0b11011101, 0b10110100], .orHalf .ix .high),
    ([0b11111101, 0b10111101], .cpHalf .iy .low),
    ([0b11011101, 0b10000110, 0b11111011], .addAMxy .ix 0xFB),
    ([0b11111101, 0b10001110, 0b10000101], .adcAMxy .iy 0x85),
    ([0b11011101, 0b10010110, 0b01111110], .subMxy .ix 0x7E),
    ([0b11111101, 0b10011110, 0b11111011], .sbcAMxy .iy 0xFB),
    ([0b11011101, 0b10100110, 0b10000101], .andMxy .ix 0x85),
    ([0b11111101, 0b10101110, 0b01111110], .xorMxy .iy 0x7E),
    ([0b11011101, 0b10110110, 0b11111011], .orMxy .ix 0xFB),
    ([0b11111101, 0b10111110, 0b10000101], .cpMxy .iy 0x85),
    ([0b11011101, 0b11001011, 0b01111110, 0b00000011], .rlcMxy .ix 0x7E (some .e)),
    ([0b11111101, 0b11001011, 0b11111011, 0b00001000], .rrcMxy .iy 0xFB (some .b)),
    ([0b11011101, 0b11001011, 0b10000101, 0b00010110], .rlMxy .ix 0x85 none),
    ([0b11111101, 0b11001011, 0b01111110, 0b00011111], .rrMxy .iy 0x7E (some .a)) ]

/-- Words written out from the encoding strings of spec/opcode_table.json. -/
def words12 : List (List Byte × Instr) := [
    ([0b11011101, 0b11001011, 0b11111011, 0b00100011], .slaMxy .ix 0xFB (some .e)),
    ([0b11111101, 0b11001011, 0b10000101, 0b00101110], .sraMxy .iy 0x85 none),
    ([0b11011101, 0b11001011, 0b01111110, 0b00110010], .sllMxy .ix 0x7E (some .d)),
    ([0b11111101, 0b11001011, 0b11111011, 0b00111111], .srlMxy .iy 0xFB (some .a)),
    ([0b11011101, 0b11001011, 0b10000101, 0b01101011], .bitMxy .ix 0x85 5 3),
    ([0b11111101, 0b11001011, 0b01111110, 0b10010000], .resMxy .iy 0x7E 2 (some .b)),
    ([0b11011101, 0b11001011, 0b11111011, 0b11111010], .setMxy .ix 0xFB 7 (some .d)),
    ([0b11111101, 0b00000000], .lonePrefix .iy 0x00) ]

theorem test_decode_words1 : words1.all reads = true := by decide +kernel
theorem test_decode_words2 : words2.all reads = true := by decide +kernel
theorem test_decode_words3 : words3.all reads = true := by decide +kernel
theorem test_decode_words4 : words4.all reads = true := by decide +kernel
theorem test_decode_words5 : words5.all reads = true := by decide +kernel
theorem test_decode_words6 : words6.all reads = true := by decide +kernel
theorem test_decode_words7 : words7.all reads = true := by decide +kernel
theorem test_decode_words8 : words8.all reads = true := by decide +kernel
theorem test_decode_words9 : words9.all reads = true := by decide +kernel
theorem test_decode_words10 : words10.all reads = true := by decide +kernel
theorem test_decode_words11 : words11.all reads = true := by decide +kernel
theorem test_decode_words12 : words12.all reads = true := by decide +kernel

/-- One instruction of every constructor. -/
def samples : List Instr :=
  (words1 ++ words2 ++ words3 ++ words4 ++ words5 ++ words6 ++ words7 ++ words8 ++ words9 ++ words10 ++ words11 ++ words12).map Prod.snd

/-- 30_encoding.md rule R149 and 48_index.md rule R451 against the decoder, for every opcode byte. -/
theorem test_prefix_maps_agree_with_lists :
    ((List.range 256).map (BitVec.ofNat 8)).all (fun o =>
      (decodeWindow 0xDD o 0x12 0x34 == .lonePrefix .ix o) == !indexMap.contains o &&
      (decodeWindow 0xED o 0x12 0x34 == .edNop o) == edUnused o) = true := by decide +kernel

theorem test_table_word_is_read_first_byte_on_top :
    decodeTableWord 32 0xDDCB0106 = some (.rlcMxy .ix 0x01 none) ∧ decodeTableWord 16 0xED57 = some .ldAI ∧
    decodeTableWord 8 0x76 = some .halt := by decide +kernel

/-! ### Running one step -/

/-- A state with code at PC and bytes in memory; the vectors' other registers are 0. -/
def start (c : Cpu) (code : List Byte) (cells : List (Word × Byte)) (t : Nat := 0) : State :=
  placeBytes c.pc code
    { State.reset with cpu := c, t := t, mem := cells.foldl (fun m x => m.write x.1.toNat x.2) [] }

/-- Registers 0 but PC, as most vectors have it. -/
def zero : Cpu := { Cpu.zero with pc := 0x8000 }

/-- What is read from the state a step answers. -/
def after {α : Type} (s : State) (f : State → α) : Option α :=
  match step s with
  | .next u => some (f u)
  | _       => none

/-- What is read from the state two steps later. -/
def after2 {α : Type} (s : State) (f : State → α) : Option α :=
  match step s with
  | .next u => after u f
  | _       => none

/-- Whether a step ends in the overrun fault. -/
def overruns (s : State) : Bool :=
  match step s with
  | .fault .contentionOverrun => true
  | _ => false

/-! ### 95_test_vectors.md sections 1 and 2.1 -/

theorem test_S1_E1_E2 :
    after (start { zero with a := 0x80 } [0x87] []) (fun u => (u.cpu.a, u.cpu.f, u.t, u.cpu.pc, u.cpu.r, u.cpu.q))
      = some (0x00, 0x45, 4, 0x8001, 0x01, 0x45) ∧
    after (start { zero with pc := 0xFFFF } [0x01, 0x34, 0x12] []) (fun u => (u.cpu.bc, u.cpu.pc, u.t))
      = some (0x1234, 0x0002, 10) ∧
    after (start { zero with sp := 0x0001, b := 0xAB, c := 0xCD } [0xC5] [])
      (fun u => (u.cpu.sp, u.byteAt 0xFFFF, u.byteAt 0, u.t)) = some (0xFFFF, 0xCD, 0x00, 11) := by decide +kernel

theorem test_S2 :
    after (start { zero with pc := 0xA000, h := 0x80, d := 0x90, c := 2 } [0xED, 0xB0] [(0x8000, 0xAA), (0x8001, 0xBB)])
      (fun u => (u.t, u.cpu.bc, u.cpu.hl, u.cpu.de, u.cpu.pc, u.cpu.f, u.cpu.memptr, u.cpu.r, u.byteAt 0x9000))
      = some (21, 0x0001, 0x8001, 0x9001, 0xA000, 0x2C, 0xA001, 0x02, 0xAA) ∧
    after2 (start { zero with pc := 0xA000, h := 0x80, d := 0x90, c := 2 } [0xED, 0xB0] [(0x8000, 0xAA), (0x8001, 0xBB)])
      (fun u => (u.t, u.cpu.bc, u.cpu.hl, u.cpu.de, u.cpu.pc, u.cpu.f, u.cpu.memptr, u.cpu.r, u.byteAt 0x9001))
      = some (37, 0x0000, 0x8002, 0x9002, 0xA002, 0x28, 0xA001, 0x04, 0xBB) := by
  refine ⟨?_, ?_⟩ <;> decide +kernel

theorem test_E3 :
    after (start { zero with r := 0xFF } [0x00] []) (fun u => u.cpu.r) = some 0x80 ∧
    after (start { zero with r := 0x7F } [0x00] []) (fun u => u.cpu.r) = some 0x00 ∧
    after (start { zero with r := 0xFE } [0xCB, 0x00] []) (fun u => u.cpu.r) = some 0x80 := by decide +kernel

theorem test_contention_table :
    [(14335, 6), (14336, 5), (14340, 1), (14341, 0), (14342, 0), (14343, 6), (14462, 0), (14463, 0), (14559, 6),
     (14334, 0), (57342, 0), (57343, 0), (57119, 6)].all (fun x => contentionDelay x.1 == x.2) = true := by
  decide +kernel

theorem test_M1_M2_M3_M4_M5 :
    after (start zero [0x3A, 0x00, 0x40] [(0x4000, 0x77)] 14326) (fun u => (u.t, u.trace)) = some (14344,
      [⟨14330, .m1, 0x8000, 0x3A⟩, ⟨14333, .mr, 0x8001, 0x00⟩, ⟨14336, .mr, 0x8002, 0x40⟩,
       ⟨14344, .mr, 0x4000, 0x77⟩]) ∧
    after (start { zero with pc := 0x4000 } [0x00] [] 14335) (fun u => (u.t, u.trace))
      = some (14345, [⟨14345, .m1, 0x4000, 0x00⟩]) ∧
    after (start { zero with pc := 0x4000 } [0x00] [] 14463) (fun u => u.t) = some 14467 ∧
    after (start { zero with pc := 0x4000 } [0x00] [] 57119) (fun u => u.t) = some 57129 ∧
    after (start { zero with pc := 0x4000 } [0x00] [] 57343) (fun u => u.t) = some 57347 := by decide +kernel

theorem test_M6_M7_M8_M9 :
    after (start zero [0xD3, 0xFE] [] 14335) (fun u => (u.t, u.trace)) = some (14352,
      [⟨14339, .m1, 0x8000, 0xD3⟩, ⟨14342, .mr, 0x8001, 0xFE⟩, ⟨14352, .iow, 0x00FE, 0x00⟩]) ∧
    after (start { zero with a := 0x40 } [0xD3, 0xFE] [] 14335) (fun u => u.t) = some 14352 ∧
    after (start { zero with a := 0x40 } [0xD3, 0xFF] [] 14335) (fun u => u.t) = some 14358 ∧
    after (start zero [0xD3, 0xFF] [] 14335) (fun u => u.t) = some 14346 := by decide +kernel

theorem test_M10_O1 :
    after (start { zero with a := 0x7F } [0xDB, 0xFE] []) (fun u => (u.cpu.a, u.cpu.memptr, u.t))
      = some (Config.busIn 0x7FFE 7 [⟨4, .m1, 0x8000, 0xDB⟩, ⟨7, .mr, 0x8001, 0xFE⟩], 0x7FFF, 11) := rfl

theorem test_M11_M12_M13 :
    after (start { zero with i := 0x40, b := 2 } [0x10, 0xFE] [] 14335) (fun u => u.t) = some 14350 ∧
    overruns (start { zero with pc := 0x4000 } [0x00] [] 70930) = true ∧
    after (start zero [0x00] [] 70930) (fun u => u.t) = some 70934 := by decide +kernel

theorem test_M14_M15 :
    after (start { zero with a := 0x55 } [0x32, 0x00, 0x20] []) (fun u => (u.byteAt 0x2000, u.cpu.memptr, u.trace.getLast?))
      = some (0x00, 0x5501, some ⟨13, .mw, 0x2000, 0x55⟩) ∧
    after (start zero [0x2A, 0xFF, 0xFF] [(0xFFFF, 0x34), (0x0000, 0x12)])
      (fun u => (u.cpu.hl, u.cpu.memptr, u.trace.drop 3))
      = some (0x1234, 0x0000, [⟨13, .mr, 0xFFFF, 0x34⟩, ⟨16, .mr, 0x0000, 0x12⟩]) := by decide +kernel

/-! ### 95_test_vectors.md section 2.2: loads -/

theorem test_L1_L2_L3_L4 :
    after (start { zero with c := 0x34 } [0x41] []) (fun u => (u.cpu.b, u.cpu.pc, u.cpu.r, u.t))
      = some (0x34, 0x8001, 0x01, 4) ∧
    after (start { zero with h := 0x90 } [0x66] [(0x9000, 0x12)]) (fun u => (u.cpu.hl, u.t)) = some (0x1200, 7) ∧
    after (start { zero with h := 0x90 } [0x74] []) (fun u => (u.byteAt 0x9000, u.t)) = some (0x90, 7) ∧
    after (start { zero with h := 0x10 } [0x36, 0xAA] []) (fun u => (u.byteAt 0x1000, u.trace.getLast?))
      = some (0x00, some ⟨10, .mw, 0x1000, 0xAA⟩) := by decide +kernel

theorem test_L5_L6_L7 :
    after (start { zero with b := 0xFF, c := 0xFF } [0x0A] [(0xFFFF, 0x5A)]) (fun u => (u.cpu.a, u.cpu.memptr, u.t))
      = some (0x5A, 0x0000, 7) ∧
    after (start { zero with b := 0x90, c := 0xFF, a := 0x12 } [0x02] [])
      (fun u => (u.byteAt 0x90FF, u.cpu.memptr, u.t)) = some (0x12, 0x1200, 7) ∧
    after (start { zero with d := 0x90, a := 0x34 } [0x12] []) (fun u => (u.byteAt 0x9000, u.cpu.memptr, u.t))
      = some (0x34, 0x3401, 7) := by decide +kernel

theorem test_L8_L9_L10_L11 :
    after (start { zero with i := 0x80, iff2 := true, f := 0x01 } [0xED, 0x57] [])
      (fun u => (u.cpu.a, u.cpu.f, u.cpu.r, u.t)) = some (0x80, 0x85, 0x02, 9) ∧
    after (start { zero with f := 0xFF } [0xED, 0x57] []) (fun u => (u.cpu.a, u.cpu.f)) = some (0x00, 0x41) ∧
    after (start { zero with r := 0x7E } [0xED, 0x5F] []) (fun u => (u.cpu.r, u.cpu.a, u.cpu.f))
      = some (0x00, 0x00, 0x40) ∧
    after (start { zero with r := 0xFD, iff2 := true } [0xED, 0x5F] []) (fun u => (u.cpu.r, u.cpu.a, u.cpu.f))
      = some (0xFF, 0xFF, 0xAC) := by decide +kernel

theorem test_L12_L13_L14_L15 :
    after (start { zero with a := 0x80 } [0xED, 0x4F] []) (fun u => (u.cpu.r, u.t)) = some (0x80, 9) ∧
    after (start { zero with a := 0x40 } [0xED, 0x47] []) (fun u => (u.cpu.i, u.t)) = some (0x40, 9) ∧
    after (start zero [0x21, 0x34, 0x12] []) (fun u => (u.cpu.hl, u.cpu.memptr, u.t)) = some (0x1234, 0, 10) ∧
    after (start { zero with h := 0xAB, l := 0xCD } [0x22, 0x00, 0x90] [])
      (fun u => (u.byteAt 0x9000, u.byteAt 0x9001, u.cpu.memptr, u.t)) = some (0xCD, 0xAB, 0x9001, 16) := by
  decide +kernel

theorem test_L16_L17_L18 :
    after (start zero [0xED, 0x6B, 0x00, 0x90] [(0x9000, 0x34), (0x9001, 0x12)])
      (fun u => (u.cpu.hl, u.cpu.r, u.cpu.memptr, u.t)) = some (0x1234, 0x02, 0x9001, 20) ∧
    after (start { zero with sp := 0xC000 } [0xED, 0x73, 0xFF, 0x9F] [])
      (fun u => (u.byteAt 0x9FFF, u.byteAt 0xA000, u.cpu.memptr, u.t)) = some (0x00, 0xC0, 0xA000, 20) ∧
    after (start { zero with h := 0xC0 } [0xF9] []) (fun u => (u.cpu.sp, u.t)) = some (0xC000, 6) := by decide +kernel

theorem test_L19_L20_L22 :
    after2 (start { zero with sp := 0xC000, a := 0x12, f := 0xD7 } [0xF5, 0xF1] [])
      (fun u => (u.cpu.af, u.cpu.sp, u.cpu.q, u.t)) = some (0x12D7, 0xC000, 0, 21) ∧
    after (start { zero with sp := 0x9000, h := 0xAB, l := 0xCD } [0xE3] [(0x9000, 0x34), (0x9001, 0x12)])
      (fun u => (u.cpu.hl, u.byteAt 0x9000, u.byteAt 0x9001, u.cpu.memptr, u.t))
      = some (0x1234, 0xCD, 0xAB, 0x1234, 19) ∧
    after2 (start { zero with f := 1, fAlt := 2, c := 3, cAlt := 4 } [0x08, 0xD9] [])
      (fun u => (u.cpu.f, u.cpu.fAlt, u.cpu.c, u.cpu.cAlt, u.t)) = some (2, 1, 4, 3, 8) := by decide +kernel

/-! ### 95_test_vectors.md section 2.3: 8-bit arithmetic and logic -/

/-- Rows A1 to A26: y of the operation, A, operand, F in; A, F out. -/
def aluRows : List ((Nat × Byte × Byte × Byte) × Byte × Byte) :=
  ([((0, 0x7F, 0x01, 0x00), 0x80, 0x94), ((0, 0xFF, 0x01, 0x00), 0x00, 0x51), ((0, 0x0F, 0x01, 0x00), 0x10, 0x10),
    ((0, 0x80, 0x80, 0x00), 0x00, 0x45), ((1, 0xFF, 0x00, 0x01), 0x00, 0x51), ((1, 0x7F, 0x00, 0x01), 0x80, 0x94),
    ((1, 0x0E, 0x01, 0x01), 0x10, 0x10), ((2, 0x80, 0x01, 0x00), 0x7F, 0x3E), ((2, 0x00, 0x01, 0x00), 0xFF, 0xBB)] :
    List ((Nat × Byte × Byte × Byte) × Byte × Byte))
  ++ [((2, 0x10, 0x10, 0x00), 0x00, 0x42), ((3, 0x00, 0x00, 0x01), 0xFF, 0xBB), ((3, 0x80, 0x00, 0x01), 0x7F, 0x3E),
    ((3, 0x10, 0x0F, 0x01), 0x00, 0x52), ((4, 0xFF, 0x0F, 0x00), 0x0F, 0x1C), ((4, 0xF0, 0x0F, 0x01), 0x00, 0x54),
    ((4, 0x28, 0xFF, 0x00), 0x28, 0x3C), ((5, 0xFF, 0xFF, 0xFF), 0x00, 0x44), ((5, 0x55, 0xAA, 0x00), 0xFF, 0xAC)]
  ++ [((5, 0x01, 0x02, 0x00), 0x03, 0x04), ((6, 0x00, 0x00, 0xFF), 0x00, 0x44), ((6, 0x80, 0x01, 0x00), 0x81, 0x84),
    ((6, 0x20, 0x08, 0x00), 0x28, 0x2C), ((7, 0x00, 0x28, 0x00), 0x00, 0xBB), ((7, 0x28, 0x00, 0x00), 0x28, 0x02),
    ((7, 0x80, 0x01, 0x00), 0x80, 0x16), ((7, 0x05, 0x05, 0x00), 0x05, 0x42)]

/-- A row run from a state built from A, the operand and F. -/
def aluRow (build : Nat → Cpu → Byte → State) (t : Nat) (x : (Nat × Byte × Byte × Byte) × Byte × Byte) : Bool :=
  after (build x.1.1 { zero with a := x.1.2.1, f := x.1.2.2.2 } x.1.2.2.1)
    (fun u => (u.cpu.a, u.cpu.f, u.cpu.q, u.t)) == some (x.2.1, x.2.2, x.2.2, t)

theorem test_A1_A26_registers :
    aluRows.all (aluRow (fun y c v => start { c with b := v } [opByte 2 y 0] []) 4) = true := by decide +kernel
theorem test_A1_A26_immediates :
    aluRows.all (aluRow (fun y c v => start c [opByte 3 y 6, v] []) 7) = true := by decide +kernel
theorem test_A1_A26_memory :
    aluRows.all (aluRow (fun y c v => start { c with h := 0x90 } [opByte 2 y 6] [(0x9000, v)]) 7) = true := by
  decide +kernel
theorem test_A1_A26_index_halves :
    aluRows.all (aluRow (fun y c v => start { c with iy := join 0x55 v } [0xFD, opByte 2 y 5] []) 8) = true := by
  decide +kernel
theorem test_A1_A26_indexed_memory :
    aluRows.all (aluRow (fun y c v => start { c with ix := 0x9002 } [0xDD, opByte 2 y 6, 0xFE] [(0x9000, v)]) 19)
      = true := by decide +kernel

/-- Rows A27 to A34: z of the opcode, v, F in; result, F out. -/
def incRows : List ((Nat × Byte × Byte) × Byte × Byte) :=
  [((4, 0x7F, 0x00), 0x80, 0x94), ((4, 0xFF, 0x01), 0x00, 0x51), ((4, 0x0F, 0x00), 0x10, 0x10),
   ((4, 0x00, 0x00), 0x01, 0x00), ((5, 0x80, 0x00), 0x7F, 0x3E), ((5, 0x01, 0x01), 0x00, 0x43),
   ((5, 0x10, 0x00), 0x0F, 0x1A), ((5, 0x00, 0x00), 0xFF, 0xBA)]

theorem test_A27_A34 :
    incRows.all (fun x =>
      after (start { zero with d := x.1.2.1, f := x.1.2.2 } [opByte 0 2 x.1.1] []) (fun u => (u.cpu.d, u.cpu.f, u.t))
        == some (x.2.1, x.2.2, 4) &&
      after (start { zero with h := 0x90, f := x.1.2.2 } [opByte 0 6 x.1.1] [(0x9000, x.1.2.1)])
        (fun u => (u.byteAt 0x9000, u.cpu.f, u.t)) == some (x.2.1, x.2.2, 11)) = true := by decide +kernel

/-- Rows A35 to A41: opcode, A, F in; A, F out. -/
theorem test_A35_A41 :
    ([((0x27, 0x9A, 0x00), 0x00, 0x55), ((0x27, 0x15, 0x10), 0x1B, 0x0C), ((0x27, 0x0F, 0x02), 0x09, 0x0E),
      ((0x27, 0x99, 0x01), 0xF9, 0xAD), ((0x27, 0x00, 0x12), 0xFA, 0xBE), ((0x2F, 0x55, 0xC5), 0xAA, 0xFF),
      ((0x2F, 0xFF, 0x00), 0x00, 0x12)] : List ((Byte × Byte × Byte) × Byte × Byte)).all (fun x =>
      after (start { zero with a := x.1.2.1, f := x.1.2.2 } [x.1.1] []) (fun u => (u.cpu.a, u.cpu.f, u.t))
        == some (x.2.1, x.2.2, 4)) = true := by decide +kernel

theorem test_A42_A44 :
    ([(0x00, 0x00, 0x42), (0x01, 0xFF, 0xBB), (0x80, 0x80, 0x87)] : List (Byte × Byte × Byte)).all (fun x =>
      after (start { zero with a := x.1, f := 0xFF } [0xED, 0x44] []) (fun u => (u.cpu.a, u.cpu.f, u.t))
        == some (x.2.1, x.2.2, 8)) = true := by decide +kernel

theorem test_A45_A54 :
    scfFlags .qRule 0x00 0x28 0x28 = 0x01 ∧ scfFlags .fromA 0x00 0x28 0x28 = 0x01 ∧
    scfFlags .qRule 0x00 0x28 0x00 = 0x29 ∧ scfFlags .fromA 0x00 0x28 0x00 = 0x01 ∧
    scfFlags .qRule 0x28 0x00 0x00 = 0x29 ∧ scfFlags .fromA 0x28 0x00 0x00 = 0x29 ∧
    ccfFlags .qRule 0x00 0x29 0x29 = 0x10 ∧ ccfFlags .fromA 0x00 0x29 0x29 = 0x10 ∧
    ccfFlags .qRule 0x00 0x01 0x00 = 0x10 ∧ ccfFlags .fromA 0x00 0x01 0x00 = 0x10 := by decide +kernel

theorem test_scf_ccf_use_the_parameter :
    after (start { zero with f := 0x28 } [0x37] []) (fun u => u.cpu.f)
      = some (scfFlags Config.scfCcfXy 0x00 0x28 0x00) ∧
    after (start { zero with f := 0x01 } [0x3F] []) (fun u => u.cpu.f)
      = some (ccfFlags Config.scfCcfXy 0x00 0x01 0x00) := ⟨rfl, rfl⟩

/-! ### 95_test_vectors.md sections 2.4 and 2.5 -/

/-- Rows W1 to W10: the code, HL, DE, F in; HL, F, t out. -/
theorem test_W1_W10 :
    ([(([0x19], 0x1000, 0x1000, 0x00), 0x2000, 0x20, 11), (([0x19], 0x8000, 0x8000, 0xC4), 0x0000, 0xC5, 11),
      (([0x19], 0x2FFF, 0x0001, 0x00), 0x3000, 0x30, 11), (([0xED, 0x5A], 0x0000, 0x0000, 0x00), 0x0000, 0x40, 15),
      (([0xED, 0x5A], 0x8000, 0x8000, 0x00), 0x0000, 0x45, 15), (([0xED, 0x5A], 0x0FFF, 0x0000, 0x01), 0x1000, 0x10, 15),
      (([0xED, 0x52], 0x1234, 0x1234, 0x00), 0x0000, 0x42, 15), (([0xED, 0x52], 0x1234, 0x1234, 0x01), 0xFFFF, 0xBB, 15),
      (([0xED, 0x52], 0x0000, 0x0001, 0x00), 0xFFFF, 0xBB, 15), (([0xED, 0x52], 0x7FFF, 0xFFFF, 0x00), 0x8000, 0x87, 15)] :
      List ((List Byte × Word × Word × Byte) × Word × Byte × Nat)).all (fun x =>
      after (start (({ zero with f := x.1.2.2.2 }.setHl x.1.2.1).setDe x.1.2.2.1) x.1.1 [])
        (fun u => (u.cpu.hl, u.cpu.f, u.t, u.cpu.memptr)) == some (x.2.1, x.2.2.1, x.2.2.2, x.1.2.1 + 1)) = true := by
  decide +kernel

theorem test_inc_dec_pairs_wrap :
    after (start { zero with b := 0xFF, c := 0xFF, f := 0xFF } [0x03] []) (fun u => (u.cpu.bc, u.cpu.f, u.t))
      = some (0x0000, 0xFF, 6) ∧
    after (start zero [0x3B] []) (fun u => (u.cpu.sp, u.cpu.f, u.t)) = some (0xFFFF, 0x00, 6) := by decide +kernel

/-- Rows B1 to B16: y of the operation, v, F in; result, F out. -/
def rotRows : List ((Nat × Byte × Byte) × Byte × Byte) :=
  [((0, 0x81, 0x00), 0x03, 0x05), ((0, 0x01, 0x01), 0x02, 0x00), ((1, 0x81, 0x00), 0xC0, 0x85),
   ((1, 0x01, 0x01), 0x80, 0x81), ((2, 0x81, 0x00), 0x02, 0x01), ((2, 0x01, 0x01), 0x03, 0x04),
   ((3, 0x81, 0x00), 0x40, 0x01), ((3, 0x01, 0x01), 0x80, 0x81), ((4, 0x81, 0x00), 0x02, 0x01),
   ((4, 0x01, 0x01), 0x02, 0x00), ((5, 0x81, 0x00), 0xC0, 0x85), ((5, 0x01, 0x01), 0x00, 0x45),
   ((6, 0x81, 0x00), 0x03, 0x05), ((6, 0x01, 0x01), 0x03, 0x04), ((7, 0x81, 0x00), 0x40, 0x01),
   ((7, 0x01, 0x01), 0x00, 0x45)]

theorem test_B1_B16_registers :
    rotRows.all (fun x =>
      after (start { zero with e := x.1.2.1, f := x.1.2.2 } [0xCB, opByte 0 x.1.1 3] [])
        (fun u => (u.cpu.e, u.cpu.f, u.t)) == some (x.2.1, x.2.2, 8)) = true := by decide +kernel
theorem test_B1_B16_memory :
    rotRows.all (fun x =>
      after (start { zero with h := 0x90, f := x.1.2.2 } [0xCB, opByte 0 x.1.1 6] [(0x9000, x.1.2.1)])
        (fun u => (u.byteAt 0x9000, u.cpu.f, u.t)) == some (x.2.1, x.2.2, 15)) = true := by decide +kernel
theorem test_B1_B16_indexed_memory :
    rotRows.all (fun x =>
      after (start { zero with iy := 0x8FFF, f := x.1.2.2 } [0xFD, 0xCB, 0x01, opByte 0 x.1.1 4] [(0x9000, x.1.2.1)])
        (fun u => (u.byteAt 0x9000, u.cpu.h, u.cpu.f, u.cpu.memptr, u.cpu.r, u.t))
        == some (x.2.1, x.2.1, x.2.2, 0x9000, 0x02, 23)) = true := by decide +kernel

theorem test_B17_B20 :
    ([(0x07, 0x03), (0x0F, 0xC0), (0x17, 0x02), (0x1F, 0x40)] : List (Byte × Byte)).all (fun x =>
      after (start { zero with a := 0x81, f := 0xC4 } [x.1] []) (fun u => (u.cpu.a, u.cpu.f, u.t))
        == some (x.2, 0xC5, 4)) = true := by decide +kernel

theorem test_B21_B25 :
    ([(0x7A, 0x80, 0x00, 0x90), (0x7A, 0x00, 0x01, 0x55), (0x42, 0x01, 0x00, 0x10), (0x5A, 0x08, 0x00, 0x18),
      (0x6A, 0x20, 0x00, 0x30)] : List (Byte × Byte × Byte × Byte)).all (fun x =>
      after (start { zero with d := x.2.1, f := x.2.2.1 } [0xCB, x.1] []) (fun u => (u.cpu.f, u.t))
        == some (x.2.2.2, 8)) = true := by decide +kernel

theorem test_B26_B27_B28_B29 :
    after (start { zero with h := 0x90, memptr := 0x2800 } [0xCB, 0x46] []) (fun u => (u.cpu.f, u.t)) = some (0x7C, 12) ∧
    after (start { zero with h := 0x90, f := 0x01 } [0xCB, 0x7E] [(0x9000, 0x80)]) (fun u => u.cpu.f) = some 0x91 ∧
    after (start { zero with h := 0x90, f := 0xFF } [0xCB, 0xC6] [])
      (fun u => (u.byteAt 0x9000, u.cpu.f, u.cpu.q, u.t)) = some (0x01, 0xFF, 0, 15) ∧
    after (start { zero with b := 0xFF } [0xCB, 0x80] []) (fun u => (u.cpu.b, u.t)) = some (0xFE, 8) := by
  decide +kernel

theorem test_B30_B31_B33 :
    after (start { zero with a := 0x12, h := 0x90 } [0xED, 0x6F] [(0x9000, 0x34)])
      (fun u => (u.byteAt 0x9000, u.cpu.a, u.cpu.f, u.cpu.memptr, u.t)) = some (0x42, 0x13, 0x00, 0x9001, 18) ∧
    after (start { zero with a := 0x12, h := 0x90 } [0xED, 0x67] [(0x9000, 0x34)])
      (fun u => (u.byteAt 0x9000, u.cpu.a, u.cpu.f, u.cpu.memptr, u.t)) = some (0x23, 0x14, 0x04, 0x9001, 18) ∧
    after (start { zero with h := 0x10 } [0xCB, 0x06] [(0x1000, 0x80)]) (fun u => (u.byteAt 0x1000, u.cpu.f, u.t))
      = some (0x80, 0x01, 15) := by decide +kernel

/-! ### 95_test_vectors.md sections 2.6 to 2.8 -/

theorem test_J1_J2_J3_J11 :
    after (start zero [0xC3, 0x00, 0x90] []) (fun u => (u.cpu.pc, u.cpu.memptr, u.t)) = some (0x9000, 0x9000, 10) ∧
    after (start { zero with f := 0x40 } [0xC2, 0x00, 0x90] []) (fun u => (u.cpu.pc, u.cpu.memptr, u.t))
      = some (0x8003, 0x9000, 10) ∧
    after (start { zero with f := 0x04 } [0xEA, 0x00, 0x90] []) (fun u => (u.cpu.pc, u.t)) = some (0x9000, 10) ∧
    after (start { zero with h := 0x12, l := 0x34 } [0xE9] []) (fun u => (u.cpu.pc, u.cpu.memptr, u.t))
      = some (0x1234, 0, 4) := by decide +kernel

theorem test_J4_J5_J6_J7_J8 :
    after (start zero [0x18, 0xFE] []) (fun u => (u.cpu.pc, u.cpu.memptr, u.t)) = some (0x8000, 0x8000, 12) ∧
    after (start zero [0x18, 0x80] []) (fun u => u.cpu.pc) = some 0x7F82 ∧
    after (start { zero with pc := 0xFFF0 } [0x18, 0x7F] []) (fun u => u.cpu.pc) = some 0x0071 ∧
    after (start { zero with f := 0x40 } [0x20, 0x05] []) (fun u => (u.cpu.pc, u.cpu.memptr, u.t))
      = some (0x8002, 0, 7) ∧
    after (start { zero with f := 0x01 } [0x38, 0x10] []) (fun u => (u.cpu.pc, u.cpu.memptr, u.t))
      = some (0x8012, 0x8012, 12) := by decide +kernel

theorem test_J9_J10_J12_J13 :
    after (start zero [0x10, 0xFE] []) (fun u => (u.cpu.b, u.cpu.pc, u.t)) = some (0xFF, 0x8000, 13) ∧
    after (start { zero with b := 1 } [0x10, 0xFE] []) (fun u => (u.cpu.b, u.cpu.pc, u.t)) = some (0, 0x8002, 8) ∧
    after (start { zero with pc := 0x8003, sp := 0xC000 } [0xCD, 0x10, 0x80] [])
      (fun u => (u.byteAt 0xBFFF, u.byteAt 0xBFFE, u.cpu.sp, u.cpu.pc, u.cpu.memptr, u.t))
      = some (0x80, 0x06, 0xBFFE, 0x8010, 0x8010, 17) ∧
    after (start { zero with f := 0x01, sp := 0xC000 } [0xD4, 0x00, 0x90] [])
      (fun u => (u.cpu.pc, u.cpu.sp, u.cpu.memptr, u.t)) = some (0x8003, 0xC000, 0x9000, 10) := by decide +kernel

/-- The stack the return vectors start from. -/
def returns (c : Cpu) (code : List Byte) : State := start { c with sp := 0xBFFE } code [(0xBFFE, 0x06), (0xBFFF, 0x80)]

theorem test_J14_J15_J16 :
    after (returns zero [0xC9]) (fun u => (u.cpu.pc, u.cpu.sp, u.cpu.memptr, u.t)) = some (0x8006, 0xC000, 0x8006, 10) ∧
    after (returns zero [0xC8]) (fun u => (u.cpu.pc, u.cpu.sp, u.t)) = some (0x8001, 0xBFFE, 5) ∧
    after (returns { zero with f := 0x80 } [0xF8]) (fun u => (u.cpu.pc, u.cpu.sp, u.t)) = some (0x8006, 0xC000, 11) := by
  decide +kernel

theorem test_J17_J18_J19 :
    after (returns { zero with iff2 := true } [0xED, 0x45]) (fun u => (u.cpu.pc, u.cpu.iff1, u.cpu.memptr, u.t))
      = some (0x8006, true, 0x8006, 14) ∧
    after (returns zero [0xED, 0x4D]) (fun u => (u.cpu.pc, u.cpu.iff1, u.t)) = some (0x8006, false, 14) ∧
    after (returns { zero with iff2 := true } [0xED, 0x55]) (fun u => (u.cpu.pc, u.cpu.iff1, u.t))
      = some (0x8006, true, 14) := by decide +kernel

theorem test_J20_J21 :
    after (start { zero with sp := 0xC000 } [0xFF] [])
      (fun u => (u.byteAt 0xBFFF, u.byteAt 0xBFFE, u.cpu.pc, u.cpu.memptr, u.t))
      = some (0x80, 0x01, 0x0038, 0x0038, 11) ∧
    after (start { zero with sp := 0x0001 } [0xC7] []) (fun u => (u.byteAt 0, u.byteAt 0xFFFF, u.cpu.sp, u.cpu.pc))
      = some (0x00, 0x01, 0xFFFF, 0x0000) := by decide +kernel

theorem test_K1_K6 :
    ldBlockFlags 0x00 0x00 1 0x00 = 0x04 ∧ ldBlockFlags 0x00 0x08 0 0xC1 = 0xC9 ∧
    ldBlockFlags 0x10 0x12 5 0x00 = 0x24 ∧ cpBlockFlags 0x10 0x10 4 0x00 = 0x46 ∧
    cpBlockFlags 0x10 0x20 0 0x01 = 0x83 ∧ cpBlockFlags 0x00 0x01 9 0x00 = 0xBE := by decide +kernel

theorem test_K7_K11 :
    bioFlags 0x01 18 0x00 = 0x40 ∧ bioFlags 0xFF 510 0x05 = 0x17 ∧ bioFlags 0x80 128 0x01 = 0x02 ∧
    bioFlags 0x01 2 0x00 = 0x40 ∧ bioFlags 0x80 256 0x02 = 0x13 ∧ bioFlags 0x80 0x91 0x01 = 0x06 := by decide +kernel

theorem test_K12 :
    after (start { zero with a := 0x42, h := 0x90, c := 0x10 } [0xED, 0xB1] [(0x9000, 0x41), (0x9001, 0x42)])
      (fun u => (u.cpu.bc, u.cpu.hl, u.cpu.pc, u.cpu.memptr, u.t)) = some (0x000F, 0x9001, 0x8000, 0x8001, 21) ∧
    after2 (start { zero with a := 0x42, h := 0x90, c := 0x10 } [0xED, 0xB1] [(0x9000, 0x41), (0x9001, 0x42)])
      (fun u => (u.cpu.bc, u.cpu.hl, u.cpu.pc, flagZ u.cpu.f, flagPV u.cpu.f, u.t))
      = some (0x000E, 0x9002, 0x8002, true, true, 37) := by
  refine ⟨?_, ?_⟩ <;> decide +kernel

theorem test_K13_K14 :
    after (start { zero with h := 0x90, d := 0x91, c := 1 } [0xED, 0xB0] [(0x9000, 0x77)])
      (fun u => (u.cpu.bc, u.cpu.pc, u.cpu.memptr, u.byteAt 0x9100, u.t)) = some (0, 0x8002, 0, 0x77, 16) ∧
    after (start { zero with h := 0x90, d := 0x91 } [0xED, 0xB8] [])
      (fun u => (u.cpu.bc, u.cpu.hl, u.cpu.de, u.cpu.pc, u.t)) = some (0xFFFF, 0x8FFF, 0x90FF, 0x8000, 21) := by
  decide +kernel

theorem test_K15 :
    after (start { zero with b := 0x02, c := 0x10, h := 0x90 } [0xED, 0xA2] [])
      (fun u => (u.cpu.b, u.cpu.hl, u.cpu.memptr, u.t)) = some (0x01, 0x9001, 0x0211, 16) := by decide +kernel

theorem test_K16_K17 :
    after (start { zero with b := 0x01, c := 0xFE, h := 0x90 } [0xED, 0xA3] [(0x9000, 0xFF)])
      (fun u => (u.cpu.b, u.cpu.hl, u.cpu.memptr, u.cpu.f, u.trace.getLast?))
      = some (0, 0x9001, 0x00FF, 0x57, some ⟨16, .iow, 0x00FE, 0xFF⟩) ∧
    after (start { zero with b := 0x02, c := 0xFE, h := 0x90 } [0xED, 0xB3] [(0x9000, 0x11)])
      (fun u => (u.cpu.b, u.cpu.pc, u.t, u.trace.getLast?)) = some (1, 0x8000, 21, some ⟨16, .iow, 0x01FE, 0x11⟩) := by
  decide +kernel

theorem test_block_steps_down :
    after (start { zero with a := 0x42, h := 0x90, memptr := 0x1000, b := 1 } [0xED, 0xA9] [(0x9000, 0x42)])
      (fun u => (u.cpu.bc, u.cpu.hl, u.cpu.memptr, u.cpu.a, u.t)) = some (0x00FF, 0x8FFF, 0x0FFF, 0x42, 16) ∧
    after (start { zero with b := 0x01, c := 0xFE, h := 0x90 } [0xED, 0xAB] [(0x9000, 0xFF)])
      (fun u => (u.cpu.b, u.cpu.hl, u.cpu.memptr)) = some (0, 0x8FFF, 0x00FD) := by decide +kernel

/-- O2 to O4 with the byte the port gives. -/
theorem test_O2_O3_O4 :
    szpKeepC 0x00 0x01 = 0x45 ∧ szpKeepC 0xA8 0x00 = 0xA8 ∧ szpKeepC 0x81 0x00 = 0x84 ∧
    after (start { zero with b := 0x7F, c := 0xFE } [0xED, 0x40] []) (fun u => (u.cpu.b, u.cpu.memptr, u.t))
      = some (Config.busIn 0x7FFE 8 [⟨4, .m1, 0x8000, 0xED⟩, ⟨8, .m1, 0x8001, 0x40⟩], 0x7FFF, 12) ∧
    after (start { zero with c := 0xFE } [0xED, 0x70] []) (fun u => (u.cpu.bc, u.t)) = some (0x00FE, 12) :=
  ⟨rfl, rfl, rfl, rfl, rfl⟩

theorem test_O5_O6_O7 :
    after (start { zero with a := 0x07 } [0xD3, 0xFE] []) (fun u => (u.cpu.memptr, u.trace.getLast?))
      = some (0x07FF, some ⟨11, .iow, 0x07FE, 0x07⟩) ∧
    after (start { zero with c := 0xFE, a := 0x02 } [0xED, 0x79] []) (fun u => (u.cpu.memptr, u.trace.getLast?))
      = some (0x00FF, some ⟨12, .iow, 0x00FE, 0x02⟩) ∧
    after (start { zero with c := 0xFE } [0xED, 0x71] []) (fun u => u.trace.getLast?)
      = some (some ⟨12, .iow, 0x00FE, 0x00⟩) := by decide +kernel

theorem test_O8_O9_O10_O11 :
    after (start { zero with r := 0x7F } [0x00] []) (fun u => (u.cpu.pc, u.cpu.r, u.t)) = some (0x8001, 0, 4) ∧
    after2 (start zero [0x76] []) (fun u => (u.cpu.pc, u.cpu.halt, u.cpu.r, u.t)) = some (0x8000, true, 2, 8) ∧
    after (start { zero with iff1 := true, iff2 := true } [0xF3] []) (fun u => (u.cpu.iff1, u.cpu.iff2, u.t))
      = some (false, false, 4) ∧
    after2 (start zero [0xFB, 0x00] []) (fun u => (u.cpu.iff1, u.cpu.iff2, u.cpu.eiShadow)) = some (true, true, false) ∧
    after2 (start zero [0xFB, 0xFB] []) (fun u => u.cpu.eiShadow) = some true := by decide +kernel

theorem test_O12_O13_O14_O15 :
    after (start { zero with im := .im2 } [0xED, 0x4E] []) (fun u => (u.cpu.im, u.t)) = some (.im0, 8) ∧
    after (start zero [0xED, 0x76] []) (fun u => u.cpu.im) = some .im1 ∧
    after (start zero [0xED, 0x7E] []) (fun u => u.cpu.im) = some .im2 ∧
    ([0x00, 0x77, 0x7F, 0xFF] : List Byte).all (fun o =>
      after (start zero [0xED, o] []) (fun u => (u.cpu, u.t)) == some ({ zero with pc := 0x8002, r := 2 }, 8)) = true := by
  decide +kernel

/-! ### 95_test_vectors.md section 2.9: index instructions -/

/-- IX = IY = 0x9000. -/
def indexed : Cpu := { zero with ix := 0x9000, iy := 0x9000 }

theorem test_X1_X2_X3 :
    after (start indexed [0xDD, 0x21, 0x34, 0x12] []) (fun u => (u.cpu.ix, u.cpu.pc, u.cpu.r, u.t))
      = some (0x1234, 0x8004, 2, 14) ∧
    after (start indexed [0xDD, 0x2A, 0x00, 0xA0] [(0xA000, 0xCD), (0xA001, 0xAB)])
      (fun u => (u.cpu.ix, u.cpu.memptr, u.t)) = some (0xABCD, 0xA001, 20) ∧
    after (start { indexed with iy := 0x1234 } [0xFD, 0x22, 0x00, 0xA0] [])
      (fun u => (u.byteAt 0xA000, u.byteAt 0xA001, u.cpu.memptr, u.t)) = some (0x34, 0x12, 0xA001, 20) := by
  decide +kernel

theorem test_X4_X5_X6_X7_X8_X9 :
    after (start { zero with ix := 0x0FFF, c := 1 } [0xDD, 0x09] []) (fun u => (u.cpu.ix, u.cpu.f, u.cpu.memptr, u.t))
      = some (0x1000, 0x10, 0x1000, 15) ∧
    after (start { zero with ix := 0x8000 } [0xDD, 0x29] []) (fun u => (u.cpu.ix, u.cpu.f)) = some (0, 0x01) ∧
    after (start { zero with ix := 0xFFFF, f := 0xFF } [0xDD, 0x23] []) (fun u => (u.cpu.ix, u.cpu.f, u.t))
      = some (0, 0xFF, 10) ∧
    after (start { zero with ix := 0x7FFF } [0xDD, 0x24] []) (fun u => (u.cpu.ix, u.cpu.f, u.t))
      = some (0x80FF, 0x94, 8) ∧
    after (start indexed [0xFD, 0x2E, 0x5A] []) (fun u => (u.cpu.iy, u.t)) = some (0x905A, 11) ∧
    after (start { indexed with a := 0x5A } [0xDD, 0x6F] []) (fun u => (u.cpu.ix, u.t)) = some (0x905A, 8) := by
  decide +kernel

theorem test_X10_X11_X12_X13 :
    after (start indexed [0xDD, 0x7E, 0xFB] [(0x8FFB, 0x42)]) (fun u => (u.cpu.a, u.cpu.memptr, u.t))
      = some (0x42, 0x8FFB, 19) ∧
    after (start indexed [0xDD, 0x66, 0x00] [(0x9000, 0x12)]) (fun u => (u.cpu.h, u.cpu.ix, u.t))
      = some (0x12, 0x9000, 19) ∧
    after (start { indexed with a := 0x11 } [0xFD, 0x77, 0x05] []) (fun u => (u.byteAt 0x9005, u.cpu.memptr, u.t))
      = some (0x11, 0x9005, 19) ∧
    after (start indexed [0xDD, 0x36, 0x02, 0x99] []) (fun u => (u.byteAt 0x9002, u.cpu.memptr, u.t))
      = some (0x99, 0x9002, 19) := by decide +kernel

theorem test_X14_X15 :
    after (start indexed [0xDD, 0x34, 0x01] [(0x9001, 0x7F)])
      (fun u => (u.byteAt 0x9001, u.cpu.f, u.cpu.memptr, u.t)) = some (0x80, 0x94, 0x9001, 23) ∧
    after (start { indexed with f := 0x01 } [0xDD, 0x35, 0x80] [])
      (fun u => (u.byteAt 0x8F80, u.cpu.f, u.cpu.memptr, u.t)) = some (0xFF, 0xBB, 0x8F80, 23) := by decide +kernel

theorem test_X18_X19_X20_X21 :
    after2 (start { zero with sp := 0xC000, ix := 0x1234 } [0xDD, 0xE5, 0xDD, 0xE1] [])
      (fun u => (u.byteAt 0xBFFF, u.byteAt 0xBFFE, u.cpu.ix, u.cpu.sp, u.cpu.r, u.t))
      = some (0x12, 0x34, 0x1234, 0xC000, 4, 29) ∧
    after (start { zero with sp := 0xA000, ix := 0xABCD } [0xDD, 0xE3] [(0xA000, 0x34), (0xA001, 0x12)])
      (fun u => (u.cpu.ix, u.byteAt 0xA000, u.byteAt 0xA001, u.cpu.memptr, u.t))
      = some (0x1234, 0xCD, 0xAB, 0x1234, 23) ∧
    after (start { zero with ix := 0x1234 } [0xDD, 0xE9] []) (fun u => (u.cpu.pc, u.t)) = some (0x1234, 8) ∧
    after (start { zero with iy := 0xC000 } [0xFD, 0xF9] []) (fun u => (u.cpu.sp, u.t)) = some (0xC000, 10) := by
  refine ⟨?_, ?_, ?_, ?_⟩ <;> decide +kernel

theorem test_X22_X23_X24_X25 :
    after (start indexed [0xDD, 0xCB, 0x01, 0x06] [(0x9001, 0x80)])
      (fun u => (u.byteAt 0x9001, u.cpu.f, u.cpu.memptr, u.cpu.r, u.t)) = some (0x01, 0x01, 0x9001, 2, 23) ∧
    after (start indexed [0xDD, 0xCB, 0x01, 0x00] [(0x9001, 0x80)]) (fun u => (u.byteAt 0x9001, u.cpu.b))
      = some (0x01, 0x01) ∧
    after (start { indexed with ix := 0x2800 } [0xDD, 0xCB, 0x00, 0x46] []) (fun u => (u.cpu.f, u.cpu.memptr, u.t))
      = some (0x7C, 0x2800, 20) ∧
    after (start indexed [0xDD, 0xCB, 0x00, 0x7F] [(0x9000, 0x80)]) (fun u => (u.cpu.f, u.t)) = some (0x90, 20) := by
  decide +kernel

theorem test_X26_X27_X28 :
    after (start indexed [0xFD, 0xCB, 0x00, 0x86] [(0x9000, 0xFF)]) (fun u => (u.byteAt 0x9000, u.cpu.f, u.t))
      = some (0xFE, 0, 23) ∧
    after (start indexed [0xFD, 0xCB, 0x00, 0x80] [(0x9000, 0xFF)]) (fun u => (u.byteAt 0x9000, u.cpu.b))
      = some (0xFE, 0xFE) ∧
    after (start { indexed with ix := 0x9080 } [0xDD, 0xCB, 0x80, 0xFE] []) (fun u => (u.byteAt 0x9000, u.t))
      = some (0x80, 23) := by decide +kernel

theorem test_X29_X30_X31_X32 :
    after (start indexed [0xDD, 0x00] []) (fun u => (u.cpu.r, u.cpu.pc, u.cpu.eiShadow, u.t)) = some (1, 0x8001, true, 4) ∧
    after2 (start indexed [0xDD, 0x00] []) (fun u => (u.cpu.r, u.cpu.pc, u.cpu.eiShadow, u.t))
      = some (2, 0x8002, false, 8) ∧
    after2 (start { indexed with e := 1, l := 2 } [0xFD, 0xEB] []) (fun u => (u.cpu.de, u.cpu.hl, u.cpu.iy))
      = some (2, 1, 0x9000) ∧
    after2 (start zero [0xDD, 0xDD, 0x21, 0x00, 0x90] []) (fun u => (u.cpu.ix, u.cpu.r, u.t)) = some (0x9000, 3, 18) ∧
    after2 (start indexed [0xDD, 0x76] []) (fun u => (u.cpu.pc, u.cpu.halt, u.t)) = some (0x8001, true, 8) := by
  decide +kernel

/-! ### 95_test_vectors.md sections 2.10 and 2.11: interrupts, reset, the host -/

/-- What is read from an accepted interrupt. -/
def interrupted {α : Type} (s : State) (f : State → α) : Option α :=
  match interrupt s with
  | (.next u, true) => some (f u)
  | _               => none

/-- What is read from the state an NMI answers. -/
def nmied {α : Type} (s : State) (f : State → α) : Option α :=
  match nmi s with
  | .next u => some (f u)
  | _       => none

/-- Whether a call of `interrupt()` is turned away and changes nothing. -/
def turnedAway (s : State) : Bool :=
  match interrupt s with
  | (.next u, false) => u == s
  | _                => false

/-- Interrupts enabled, IM 1, SP = 0xC000. -/
def open1 : Cpu := { zero with iff1 := true, iff2 := true, im := .im1, sp := 0xC000 }

theorem test_I1_I4_E5 :
    interrupted (start open1 [] []) (fun u => (u.cpu.pc, u.cpu.sp, u.byteAt 0xBFFF, u.byteAt 0xBFFE, u.t))
      = some (0x0038, 0xBFFE, 0x80, 0x00, 13) ∧
    interrupted (start open1 [] []) (fun u => (u.cpu.iff1, u.cpu.iff2, u.cpu.r, u.cpu.memptr))
      = some (false, false, 1, 0x0038) ∧
    interrupted (start { open1 with im := .im0 } [] []) (fun u => (u.cpu.pc, u.t)) = some (0x0038, 13) ∧
    interrupted (start { open1 with halt := true } [0x76] []) (fun u => (u.byteAt 0xBFFE, u.cpu.pc, u.cpu.halt, u.t))
      = some (0x01, 0x0038, false, 13) := by
  refine ⟨?_, ?_, ?_, ?_⟩ <;> decide +kernel

theorem test_I2_I3 :
    interrupted (start { open1 with im := .im2, i := 0x90 } [] [(0x90FF, 0x34), (0x9100, 0x12)] 100)
      (fun u => (u.cpu.pc, u.cpu.memptr, u.t, u.trace)) = some (0x1234, 0x1234, 119,
      [⟨110, .mw, 0xBFFF, 0x80⟩, ⟨113, .mw, 0xBFFE, 0x00⟩, ⟨116, .mr, 0x90FF, 0x34⟩, ⟨119, .mr, 0x9100, 0x12⟩]) ∧
    interrupted (start { open1 with im := .im2, i := 0xFF } [] [(0xFFFF, 0x78), (0x0000, 0x56)])
      (fun u => (u.cpu.pc, u.t)) = some (0x5678, 19) := by decide +kernel

theorem test_I5_I6_E4 :
    turnedAway (start { open1 with iff1 := false } [0x00] []) = true ∧
    after (start { zero with im := .im1, sp := 0xC000 } [0xFB, 0x00] []) turnedAway = some true ∧
    after2 (start { zero with im := .im1, sp := 0xC000 } [0xFB, 0x00] [])
      (fun u => interrupted u fun v => (v.cpu.pc, v.byteAt 0xBFFF, v.byteAt 0xBFFE, v.t))
      = some (some (0x0038, 0x80, 0x02, 21)) := by decide +kernel

theorem test_I7_I8 :
    nmied (start { open1 with eiShadow := true, pc := 0x8001 } [] [])
      (fun u => (u.cpu.pc, u.cpu.iff1, u.cpu.iff2, u.cpu.eiShadow, u.cpu.memptr, u.t))
      = some (0x0066, false, true, false, 0x0066, 11) ∧
    nmied (start { open1 with halt := true, r := 1 } [0x76] []) (fun u => (u.cpu.pc, u.cpu.halt, u.byteAt 0xBFFE, u.cpu.r))
      = some (0x0066, false, 0x01, 2) := by
  refine ⟨?_, ?_⟩ <;> decide +kernel

theorem test_I11_I12 :
    after (start open1 [0xDD, 0x00] []) turnedAway = some true ∧
    hostStep .nmi { start open1 [] [] with fault := some .contentionOverrun }
      = { start open1 [] [] with fault := some .contentionOverrun } := by decide +kernel

/-- The registers of Z1 to Z3. -/
def busy : Cpu :=
  { Cpu.zero with
    a := 0x11, f := 0x22, b := 0x33, c := 0x44, d := 0x55, e := 0x66, h := 0x77, l := 0x88, hAlt := 0x99, ix := 0xAAAA
    iy := 0xBBBB, sp := 0xCCCC, pc := 0x1234, i := 0x3F, r := 0xC5, memptr := 0xDDDD, q := 0xFF, iff1 := true
    iff2 := true, im := .im2, halt := true, eiShadow := true }

theorem test_Z1_Z2_Z3_Z4 :
    hostStep (.reset true) { State.reset with cpu := busy, t := 5000, mem := [(0x8000, 0x55)] }
      = { State.reset with t := 5000, mem := [(0x8000, 0x55)] } ∧
    (hostStep (.reset false) { State.reset with cpu := busy, t := 5000 }).cpu
      = { busy with pc := 0, i := 0, r := 0, iff1 := false, iff2 := false, im := .im0, halt := false, eiShadow := false, q := 0 } ∧
    after { State.reset with t := 5000, mem := [(0, 0xF3)] } (fun u => (u.cpu.pc, u.cpu.r, u.t)) = some (1, 1, 5004) ∧
    turnedAway State.reset = true := by decide +kernel

theorem test_Z5_Z6_Z7 :
    (hostStep .clear (hostStep (.load 0x8000 [0x55]) (hostStep (.load 0x0000 [0xAA]) State.reset))).mem = [(0, 0xAA)] ∧
    (hostStep (.load 0xFFFE [1, 2, 3]) State.reset).mem = [(0xFFFE, 1), (0xFFFF, 2)] ∧
    after (start { zero with a := 0x99 } [0x32, 0x00, 0x00] []) (fun u => (u.byteAt 0, u.cpu.memptr, u.t))
      = some (0, 0x9901, 13) := by decide +kernel

theorem test_host_writes_the_read_only_map :
    after (hostStep (.setReadOnly 0x2000 false) (start { zero with a := 0x55 } [0x32, 0x00, 0x20] []))
      (fun u => u.byteAt 0x2000) = some 0x55 ∧
    after (hostStep (.setReadOnly 0x9000 true) (start { zero with h := 0x90 } [0x36, 0x55] []))
      (fun u => u.byteAt 0x9000) = some 0x00 := by decide +kernel

theorem test_host_writes_one_register_and_t :
    hostStep (.write8 .q 0x28) State.reset = { State.reset with cpu := { Cpu.zero with q := 0x28 } } ∧
    hostStep (.write16 .memptr 0x1234) State.reset = { State.reset with cpu := { Cpu.zero with memptr := 0x1234 } } ∧
    hostStep (.writeBit .iff2 true) State.reset = { State.reset with cpu := { Cpu.zero with iff2 := true } } ∧
    hostStep (.writeIm .im2) State.reset = { State.reset with cpu := { Cpu.zero with im := .im2 } } ∧
    hostStep (.setTime 69888) State.reset = { State.reset with t := 69888 } := by decide +kernel

theorem test_withFetchWord_runs_first_after_reset :
    step (State.reset.withFetchWord 16 0xED5E) = exec (.im2 3) (State.reset.withFetchWord 16 0xED5E) ∧
    after (State.reset.withFetchWord 8 0x3C) (fun u => (u.cpu.a, u.cpu.pc)) = some (1, 1) := by
  refine ⟨rfl, ?_⟩; decide +kernel

/-! ### Witnesses: concrete states and operands that meet the hypotheses of each statement -/

/-- Code and stack in uncontended RAM, t = 0, interrupts enabled. -/
def calm : State := start { open1 with h := 0x90, d := 0x91, ix := 0x9000, iy := 0x9100, b := 2, c := 0xFE } [0x00] []

/-- Every access is contended and the contention table has ended. -/
def late : State :=
  start { open1 with pc := 0x4000, sp := 0x5000, h := 0x50, d := 0x50, i := 0x40, ix := 0x5000, iy := 0x5000 } [0x00] []
    70930

/-- The instruction's Cycles line can be played, and exec answers a next state. -/
def completes (s : State) (i : Instr) : Bool :=
  (s.plays (cycles i s)).isSome &&
  match exec i s with
  | .next _ => true
  | _       => false

/-- The instruction's Cycles line meets the overrun, and exec answers the fault. -/
def stops (s : State) (i : Instr) : Bool :=
  (s.plays (cycles i s)).isNone &&
  match exec i s with
  | .fault .contentionOverrun => true
  | _ => false

theorem completes_next {s : State} {i : Instr} (h : completes s i = true) : ∃ u, exec i s = .next u := by
  unfold completes at h
  split at h
  · next u hu => exact ⟨u, hu⟩
  · simp at h

/-- The premises of every `RunsAs`, both clauses, for one instruction of every constructor. -/
theorem witness_RunsAs :
    calm.fault = none ∧ late.fault = none ∧ samples.length = 184 ∧ samples.all Instr.wellFormed = true ∧
    samples.all (completes calm) = true ∧ samples.all (stops late) = true := by
  refine ⟨rfl, rfl, ?_, ?_, ?_, ?_⟩ <;> decide +kernel

/-- The conditional forms, taken and not taken. -/
theorem witness_conditional_forms :
    condHolds .z 0x40 = true ∧ condHolds .z 0x00 = false ∧ jrCondHolds .nc 0x00 = true ∧ jrCondHolds .nc 0x01 = false ∧
    ([.callCc .nz 0x9000, .retCc .nz, .jrCc .nz 5, .jpCc .nz 0x9000, .callCc .z 0x9000, .retCc .z, .jrCc .z 5,
      .jpCc .z 0x9000] : List Instr).all (completes calm) = true := by decide +kernel

theorem witness_DecodeOfEncodeGivesTheInstructionBack :
    Instr.wellFormed (.retn 7) = true ∧ Instr.wellFormed (.lonePrefix .iy 0x76) = true := by decide +kernel

theorem witness_StepRunsTheInstructionAtPc :
    (start { zero with pc := 0xFFFF } [0x01, 0x34, 0x12] []).fault = none ∧
    Instr.wellFormed (.ldRpNn .bc 0x1234) = true ∧
    (∀ k, k < (encode (.ldRpNn .bc 0x1234)).length →
      (start { zero with pc := 0xFFFF } [0x01, 0x34, 0x12] []).byteAt (0xFFFF + BitVec.ofNat 16 k)
        = (encode (.ldRpNn .bc 0x1234)).getD k 0) ∧
    { calm with fault := some .contentionOverrun }.fault = some .contentionOverrun := by
  refine ⟨rfl, rfl, ?_, rfl⟩; decide +kernel

theorem witness_EveryInstructionIssuesItsCyclesLine :
    calm.fault = none ∧ (calm.plays (cycles .ldir calm)).isSome = true ∧
    late.fault = none ∧ late.plays (cycles .ldir late) = none := by
  refine ⟨rfl, ?_, rfl, ?_⟩ <;> decide +kernel

theorem witness_EveryInstructionCompletesBeforeTheTableEnds :
    { late with t := 70802 }.fault = none ∧ { late with t := 70802 }.t + 128 ≤ 70930 ∧
    samples.all (completes { late with t := 70802 }) = true := by
  refine ⟨rfl, ?_, ?_⟩ <;> decide +kernel

theorem calm_inv : calm.Inv := by unfold State.Inv; decide +kernel

theorem calm_runs (i : Instr) (h : completes calm i = true) : calm.Inv ∧ ∃ u, exec i calm = .next u :=
  ⟨calm_inv, completes_next h⟩

theorem witness_EveryStepKeepsTheInvariant : calm.Inv ∧ ∃ u, step calm = .next u := by
  have h : step calm = exec .nop calm := by rfl
  exact ⟨calm_inv, h ▸ completes_next (by decide +kernel)⟩

theorem witness_EveryHostActionKeepsTheInvariant : calm.Inv := calm_inv

theorem witness_EveryStepAdvancesTimeAndExtendsTheTrace : ∃ u, step calm = .next u :=
  witness_EveryStepKeepsTheInvariant.2

theorem witness_RefreshRegisterCountsOpcodeFetches : ∃ u, exec .ldRA calm = .next u :=
  completes_next (by decide +kernel)

theorem witness_MemoryChangesOnlyWhereTheInstructionStores :
    calm.mem.wf ∧ calm.isReadOnly 0x0000 = true ∧ calm.isReadOnly 0x9000 = false ∧ 0x9001 ∉ storeAddrs (.ldMhlN 5) calm ∧
    ∃ u, exec (.ldMhlN 5) calm = .next u :=
  ⟨calm_inv.1, by decide +kernel, by decide +kernel, by decide +kernel, completes_next (by decide +kernel)⟩

theorem witness_ShadowRegistersChangeOnlyByExchange :
    Instr.nop ≠ .exAfAf ∧ Instr.nop ≠ .exx ∧ ∃ u, exec .nop calm = .next u :=
  ⟨by decide, by decide, completes_next (by decide +kernel)⟩

theorem witness_ControlRegistersChangeOnlyByTheirInstructions :
    Instr.nop ≠ .ldIA ∧ (∀ y, Instr.nop ≠ .im0 y ∧ Instr.nop ≠ .im1 y ∧ Instr.nop ≠ .im2 y) ∧ Instr.nop ≠ .di ∧
    Instr.nop ≠ .ei ∧ Instr.nop ≠ .reti ∧ (∀ y, Instr.nop ≠ .retn y) ∧ ∃ u, exec .nop calm = .next u :=
  ⟨by decide, by decide, by decide, by decide, by decide, by decide, completes_next (by decide +kernel)⟩

theorem witness_EiShadowIsSetByEiAndLonePrefixOnly :
    (∃ u, exec .ei calm = .next u) ∧ ∃ u, exec (.lonePrefix .ix 0) calm = .next u :=
  ⟨completes_next (by decide +kernel), completes_next (by decide +kernel)⟩

theorem witness_QHoldsTheFlagsOnlyAfterAFlagWritingInstruction :
    writesFlags .nop = false ∧ Instr.nop ≠ .popQq .af ∧ Instr.nop ≠ .exAfAf ∧ ∃ u, exec .nop calm = .next u :=
  ⟨rfl, by decide, by decide, completes_next (by decide +kernel)⟩

/-- The last time a contended write completes, and a read-only address at any time. -/
theorem witness_WrittenByteReadsBackUnlessReadOnly :
    calm.mem.wf ∧ { calm with t := 70929 }.fault = none ∧ (isContended 0x4000 = true ∧ 70929 < 70930) ∧
    70932 = { calm with t := 70929 }.t + (if isContended 0x4000 then contentionDelay 70929 else 0) + 3 ∧
    calm.isReadOnly 0x4000 = false ∧ calm.isReadOnly 0x3FFF = true ∧ isContended 0x3FFF = false :=
  ⟨calm_inv.1, rfl, ⟨by decide, by decide⟩, by decide +kernel, by decide +kernel, by decide +kernel, by decide⟩

theorem witness_ContentionTableIsTheDisplayPattern :
    (191 < 192 ∧ 223 < 224 ∧ contentionDelay (14335 + 224 * 191 + 223) = 0) ∧
    ((14334 < 14335 ∨ 57342 < 14334) ∧ contentionDelay 14334 = 0) ∧
    ((57343 < 14335 ∨ 57342 < 57343) ∧ contentionDelay 57343 = 0) := by decide +kernel

/-- Each port case, at the last time that completes and the first that does not. -/
theorem witness_PortAccessTimingHasFourCases :
    calm.fault = none ∧
    (BitVec.getLsbD (0x00FF : Word) 0 = true ∧ isContended 0x00FF = false) ∧
    (BitVec.getLsbD (0x00FE : Word) 0 = false ∧ { calm with t := 70928 }.t + 0 + 1 < 70930 ∧
      70930 ≤ { calm with t := 70929 }.t + 0 + 1) ∧
    (BitVec.getLsbD (0x40FF : Word) 0 = true ∧ isContended 0x40FF = true ∧
      (ioContend 0x40FF { calm with t := 70926 }).fault = none ∧
      (ioContend 0x40FF { calm with t := 70927 }).fault = some .contentionOverrun) := by decide +kernel

/-- Each of the three triples is in the list; rows A15, A17 and A21. -/
theorem witness_LogicFlags :
    (∀ l : List (Byte × Byte × Bool), l = [(0x00, 0x54, true), (0x00, 0x44, false), (0x81, 0x84, false)] →
      (0x00, 0x54, true) ∈ l ∧ (0x00, 0x44, false) ∈ l ∧ (0x81, 0x84, false) ∈ l) ∧
    and8 0xF0 0x0F = (0x00, 0x54) ∧ xor8 0xFF 0xFF = (0x00, 0x44) ∧ or8 0x80 0x01 = (0x81, 0x84) :=
  ⟨fun _ h => h ▸ by decide, by decide, by decide, by decide⟩

theorem witness_DecimalAdjustGivesTheDecimalResult :
    (∃ bcd : Nat → Byte, (∀ n, bcd n = BitVec.ofNat 8 (16 * (n / 10) + n % 10)) ∧ bcd 99 = 0x99) ∧
    ∃ a f low high res g : Byte, a = 0x9A ∧ f = 0x00 ∧
      low = (if f.getLsbD 4 ∨ a.toNat % 16 > 9 then 0x06 else 0) ∧
      high = (if f.getLsbD 0 ∨ a.toNat > 0x99 then 0x60 else 0) ∧
      res = (if f.getLsbD 1 then a - (low + high) else a + (low + high)) ∧ g = (daa8 a f).2 :=
  ⟨⟨_, fun _ => rfl, rfl⟩, _, _, _, _, _, _, rfl, rfl, rfl, rfl, rfl, rfl⟩

theorem witness_PushAndPopOfPairsAndIndexRegisters :
    ∃ w : Word, w = join (calm.byteAt (calm.cpu.sp + 1)) (calm.byteAt calm.cpu.sp) := ⟨_, rfl⟩

theorem witness_ExchangesOfRegistersAndStackTop :
    ∃ w : Word, w = join (calm.byteAt (calm.cpu.sp + 1)) (calm.byteAt calm.cpu.sp) := ⟨_, rfl⟩

theorem witness_AluOperationsOnRegisters :
    ∃ (a v f : Byte) (cy : Bool) (c : Cpu), a = calm.cpu.a ∧ v = calm.cpu.getR .b ∧ f = calm.cpu.f ∧
      cy = f.getLsbD 0 ∧ c = calm.cpu.fetched 1 1 := ⟨_, _, _, _, _, rfl, rfl, rfl, rfl, rfl⟩

theorem witness_AluOperationsOnImmediates :
    ∃ (a f : Byte) (cy : Bool) (c : Cpu), a = calm.cpu.a ∧ f = calm.cpu.f ∧ cy = f.getLsbD 0 ∧
      c = calm.cpu.fetched 1 2 := ⟨_, _, _, _, rfl, rfl, rfl, rfl⟩

theorem witness_AluOperationsOnMemoryAtHl :
    ∃ (a v f : Byte) (cy : Bool) (c : Cpu), a = calm.cpu.a ∧ v = calm.byteAt calm.cpu.hl ∧ f = calm.cpu.f ∧
      cy = f.getLsbD 0 ∧ c = calm.cpu.fetched 1 1 := ⟨_, _, _, _, _, rfl, rfl, rfl, rfl, rfl⟩

theorem witness_AluOperationsOnIndexHalves :
    ∃ (a v f : Byte) (cy : Bool) (c : Cpu), a = calm.cpu.a ∧ v = calm.cpu.getHalf .ix .high ∧ f = calm.cpu.f ∧
      cy = f.getLsbD 0 ∧ c = calm.cpu.fetched 2 2 := ⟨_, _, _, _, _, rfl, rfl, rfl, rfl, rfl⟩

theorem witness_AluOperationsOnIndexedMemory :
    ∃ (ea : Word) (a v f : Byte) (cy : Bool) (c : Cpu),
      ea = BitVec.ofInt 16 ((calm.cpu.getXy .ix).toNat + (0x80 : Byte).toInt) ∧ ea = 0x8F80 ∧ a = calm.cpu.a ∧
      v = calm.byteAt ea ∧ f = calm.cpu.f ∧ cy = f.getLsbD 0 ∧ c = { calm.cpu.fetched 2 3 with memptr := ea } :=
  ⟨_, _, _, _, _, _, rfl, rfl, rfl, rfl, rfl, rfl, rfl⟩

theorem witness_IncrementsAndDecrementsOfBytes :
    ∃ v m f : Byte, v = calm.cpu.getR .a ∧ m = calm.byteAt calm.cpu.hl ∧ f = calm.cpu.f := ⟨_, _, _, rfl, rfl, rfl⟩

/-- For either value of the parameter. -/
theorem witness_AccumulatorAdjustments :
    ∃ a f xy : Byte, a = calm.cpu.a ∧ f = calm.cpu.f ∧
      xy = (match Config.scfCcfXy with
        | .qRule => ((calm.cpu.q ^^^ f) ||| a) &&& 0x28
        | .fromA => a &&& 0x28) := ⟨_, _, _, rfl, rfl, rfl⟩

/-- Rows W2, W5 and W10 for the three flag clauses. -/
theorem witness_SixteenBitArithmetic :
    (0x0000, 0xC5) = add16 0x8000 0x8000 0xC4 ∧ (0x0000, 0x45) = adc16 0x8000 0x8000 false ∧
    (0x8000, 0x87) = sbc16 0x7FFF 0xFFFF false ∧
    ∃ (hl w : Word) (f : Byte) (cy : Bool), hl = calm.cpu.hl ∧ w = calm.cpu.getRp .sp ∧ f = calm.cpu.f ∧
      cy = f.getLsbD 0 := ⟨by decide, by decide, by decide, _, _, _, _, rfl, rfl, rfl, rfl⟩

theorem witness_RotatesOfTheAccumulator :
    ∃ (a f : Byte) (cy : Bool) (c : Cpu) (l r lc rc : Byte), a = calm.cpu.a ∧ f = calm.cpu.f ∧ cy = f.getLsbD 0 ∧
      c = calm.cpu.fetched 1 1 ∧ l = a.rotateLeft 1 ∧ r = a.rotateRight 1 ∧
      lc = (a <<< 1) ||| (if cy then 0x01 else 0) ∧ rc = (a >>> 1) ||| (if cy then 0x80 else 0) :=
  ⟨_, _, _, _, _, _, _, _, rfl, rfl, rfl, rfl, rfl, rfl, rfl, rfl⟩

theorem witness_RotatesAndShiftsOfRegisters :
    ∃ (v : Byte) (cy : Bool) (c : Cpu), v = calm.cpu.getR .h ∧ cy = calm.cpu.f.getLsbD 0 ∧ c = calm.cpu.fetched 2 2 ∧
      (∃ r : Byte, r = v.rotateLeft 1) ∧ (∃ r : Byte, r = v.sshiftRight 1) ∧ (∃ r : Byte, r = v + v + 1) :=
  ⟨_, _, _, rfl, rfl, rfl, ⟨_, rfl⟩, ⟨_, rfl⟩, ⟨_, rfl⟩⟩

theorem witness_RotatesAndShiftsOfMemoryAtHl :
    ∃ (v : Byte) (cy : Bool) (c : Cpu), v = calm.byteAt calm.cpu.hl ∧ cy = calm.cpu.f.getLsbD 0 ∧
      c = calm.cpu.fetched 2 2 ∧ (∃ r : Byte, r = v.rotateLeft 1) ∧ (∃ r : Byte, r = v >>> 1) :=
  ⟨_, _, _, rfl, rfl, rfl, ⟨_, rfl⟩, ⟨_, rfl⟩⟩

theorem witness_RotatesAndShiftsOfIndexedMemory :
    ∃ (ea : Word) (v : Byte) (cy : Bool) (c : Cpu),
      ea = BitVec.ofInt 16 ((calm.cpu.getXy .iy).toNat + (0x7F : Byte).toInt) ∧ v = calm.byteAt ea ∧
      cy = calm.cpu.f.getLsbD 0 ∧ c = { calm.cpu.fetched 2 4 with memptr := ea } ∧ (∃ r : Byte, r = v.rotateLeft 1) :=
  ⟨_, _, _, _, rfl, rfl, rfl, rfl, ⟨_, rfl⟩⟩

theorem witness_BitOperationsOnRegistersAndMemory :
    ∃ v m : Byte, v = calm.cpu.getR .h ∧ m = calm.byteAt calm.cpu.hl ∧
      (∀ k, k < 8 → (0x10 : Byte).getLsbD k = if k = 7 then false else v.getLsbD k) ∧
      (∀ k, k < 8 → (0x80 : Byte).getLsbD k = if k = 7 then true else m.getLsbD k) :=
  ⟨0x90, 0x00, rfl, rfl, by decide, by decide⟩

theorem witness_BitOperationsOnIndexedMemory :
    ∃ (ea : Word) (m : Byte) (c : Cpu),
      ea = BitVec.ofInt 16 ((calm.cpu.getXy .ix).toNat + (0xFF : Byte).toInt) ∧ m = calm.byteAt ea ∧
      c = { calm.cpu.fetched 2 4 with memptr := ea } ∧
      (∀ k, k < 8 → (0x00 : Byte).getLsbD k = if k = 0 then false else m.getLsbD k) ∧
      (∀ k, k < 8 → (0x01 : Byte).getLsbD k = if k = 0 then true else m.getLsbD k) :=
  ⟨0x8FFF, 0x00, _, rfl, rfl, rfl, by decide, by decide⟩

theorem witness_DecimalRotatesMoveDigits :
    (start { zero with a := 0x12, h := 0x90 } [] [(0x9000, 0x34)]).cpu.a = (1 : BitVec 4) ++ (2 : BitVec 4) ∧
    (start { zero with a := 0x12, h := 0x90 } [] [(0x9000, 0x34)]).byteAt 0x9000 = (3 : BitVec 4) ++ (4 : BitVec 4) := by
  decide +kernel

theorem witness_JumpsGoToTheirTargets :
    ∃ target : Word, target = BitVec.ofInt 16 (calm.cpu.pc.toNat + 2 + (0x80 : Byte).toInt) ∧ target = 0x7F82 :=
  ⟨_, rfl, rfl⟩

theorem witness_CallsPushAndReturnsPopTheReturnAddress :
    (∃ w : Word, w = join (calm.byteAt (calm.cpu.sp + 1)) (calm.byteAt calm.cpu.sp)) ∧
    condHolds .nz calm.cpu.f = true ∧ condHolds .z calm.cpu.f = false ∧ (0x0038 : Word).toNat = 8 * (7 : Fin 8).val :=
  ⟨⟨_, rfl⟩, rfl, rfl, rfl⟩

theorem witness_BlockTransfersMoveOneByteAStep :
    ∃ (v n f : Byte) (bc1 : Word) (up down : Cpu), v = calm.byteAt calm.cpu.hl ∧ n = v + calm.cpu.a ∧
      bc1 = calm.cpu.bc - 1 ∧
      f = (calm.cpu.f &&& 0xC1) ||| (if n.getLsbD 1 then 0x20 else 0) ||| (n &&& 0x08) |||
        (if bc1 = 0 then 0 else 0x04) ∧
      up = Cpu.flagged f ((((calm.cpu.fetched 2 2).setBc bc1).setHl (calm.cpu.hl + 1)).setDe (calm.cpu.de + 1)) ∧
      down = Cpu.flagged f ((((calm.cpu.fetched 2 2).setBc bc1).setHl (calm.cpu.hl - 1)).setDe (calm.cpu.de - 1)) :=
  ⟨_, _, _, _, _, _, rfl, rfl, rfl, rfl, rfl, rfl⟩

theorem witness_BlockSearchesCompareOneByteAStep :
    ∃ (v d n : Byte) (bc1 : Word), v = calm.byteAt calm.cpu.hl ∧ d = calm.cpu.a - v ∧ bc1 = calm.cpu.bc - 1 ∧
      n = d - (if calm.cpu.a.toNat % 16 < v.toNat % 16 then 1 else 0) := ⟨_, _, _, _, rfl, rfl, rfl, rfl⟩

theorem witness_BlockInputAndOutputMoveOneByteAStep :
    ∃ (v m b1 : Byte) (port : Word) (flags : Byte → Nat → Byte), v = inBlockByte calm ∧
      m = calm.byteAt calm.cpu.hl ∧ b1 = calm.cpu.b - 1 ∧ port = join b1 calm.cpu.c ∧
      (∀ w k, flags w k = sz53 b1 ||| (if k > 255 then 0x11 else 0) ||| (if w.getLsbD 7 then 0x02 else 0) |||
        (if parity (BitVec.ofNat 8 (k % 8) ^^^ b1) then 0x04 else 0)) :=
  ⟨_, _, _, _, _, rfl, rfl, rfl, rfl, fun _ _ => rfl⟩

theorem witness_PortInputAndOutput :
    ∃ (p : Word) (v w : Byte), p = join calm.cpu.a 0xFE ∧ v = calm.portByte [.m1 calm.cpu.pc, .mr (calm.cpu.pc + 1)] p ∧
      w = calm.portByte [.m1 calm.cpu.pc, .m1 (calm.cpu.pc + 1)] calm.cpu.bc := ⟨_, _, _, rfl, rfl, rfl⟩

theorem witness_SixteenBitOperationsOnIndexRegisters :
    ∃ xy w : Word, xy = calm.cpu.getXy .ix ∧ w = calm.cpu.getRpXY .ix .xy := ⟨_, _, rfl, rfl⟩

theorem witness_ByteOperationsOnIndexHalvesAndIndexedMemory :
    ∃ (ea : Word) (v m f : Byte) (c : Cpu),
      ea = BitVec.ofInt 16 ((calm.cpu.getXy .iy).toNat + (0x80 : Byte).toInt) ∧ v = calm.cpu.getHalf .iy .low ∧
      m = calm.byteAt ea ∧ f = calm.cpu.f ∧ c = { calm.cpu.fetched 2 3 with memptr := ea } :=
  ⟨_, _, _, _, _, rfl, rfl, rfl, rfl, rfl⟩

/-- Not enabled; in the shadow; taken in IM 2 out of a HALT; taken but overrunning on the contended stack. -/
theorem witness_InterruptIsTakenExactlyWhenEnabled :
    (State.reset.fault = none ∧ State.reset.cpu.iff1 = false) ∧
    (start { open1 with eiShadow := true } [] []).cpu.eiShadow = true ∧
    (start { open1 with im := .im2, halt := true } [] []).fault = none ∧
    (play calm.byteAt (pushActs calm.cpu calm.cpu.pc) ⟨calm.t + 7, calm.trace⟩).isSome = true ∧
    (late.fault = none ∧ late.cpu.iff1 = true ∧ late.cpu.eiShadow = false ∧
      play late.byteAt (pushActs late.cpu late.cpu.pc) ⟨late.t + 7, late.trace⟩ = none) := by decide +kernel

theorem witness_NmiIsAlwaysTaken :
    calm.fault = none ∧ (play calm.byteAt (pushActs calm.cpu calm.cpu.pc) ⟨calm.t + 5, calm.trace⟩).isSome = true ∧
    play late.byteAt (pushActs late.cpu late.cpu.pc) ⟨late.t + 5, late.trace⟩ = none := by decide +kernel

theorem witness_FaultedStateAcceptsNothing :
    { calm with fault := some .contentionOverrun }.fault = some .contentionOverrun := rfl

theorem witness_HostLoadClearAndReadOnlyMap :
    calm.mem.wf ∧ calm.fault = none ∧ (0xFFFE : Word).toNat ≤ (0xFFFF : Word).toNat ∧
    (0xFFFF : Word).toNat < (0xFFFE : Word).toNat + ([1, 2, 3] : List Byte).length :=
  ⟨calm_inv.1, rfl, by decide, by decide⟩

end Sys2Proof.Tests
end

section
/-! PROOFS. How a meaning runs its Cycles line. `Reaches s acts c u` says that `u` stands behind the primitives `acts`
issued from `s`, with the registers `c`; each primitive extends it by one act, and the end of a step turns it into a
statement `RunsAs`. An operand that the machine reads from the registers is passed as a function of them. -/

namespace Sys2Proof.Machine

/-! ### Schedules put together -/

theorem stores_append (xs ys : List Act) : stores (xs ++ ys) = stores xs ++ stores ys :=
  List.filterMap_append

theorem State.memAfter_append (s : State) (xs ys : List Act) :
    s.memAfter (xs ++ ys) = (stores ys).foldl s.storeIn (s.memAfter xs) := by
  rw [State.memAfter, stores_append, List.foldl_append, State.memAfter]

theorem State.memAfter_of_stores_nil {s : State} {acts : List Act} (h : stores acts = []) :
    s.memAfter acts = s.mem := by
  rw [State.memAfter, h, List.foldl_nil]

/-! ### The relation and its rules -/

/-- `u` stands behind the primitives `acts` issued from `s`, and its registers are `c`. -/
structure Reaches (s : State) (acts : List Act) (c : Cpu) (u : State) : Prop where
  live : u.live = s.live.bind (play s.byteAt acts)
  cpu : u.cpu = c
  mem : u.mem = s.memAfter acts
  roFlips : u.roFlips = s.roFlips

namespace Reaches

variable {s u : State} {acts : List Act} {c : Cpu}

/-- Before the first store, memory reads as it did at the start. -/
theorem byteAt_eq (h : Reaches s acts c u) (hs : stores acts = []) (a : Word) : u.byteAt a = s.byteAt a :=
  State.byteAt_congr (h.mem.trans (State.memAfter_of_stores_nil hs)) a

theorem wordAt_eq (h : Reaches s acts c u) (hs : stores acts = []) (a : Word) : u.wordAt a = s.wordAt a :=
  State.wordAt_congr (h.mem.trans (State.memAfter_of_stores_nil hs)) a

theorem upd (h : Reaches s acts c u) (f : Cpu → Cpu) : Reaches s acts (f c) (u.upd f) where
  live := h.live
  cpu := congrArg f h.cpu
  mem := h.mem
  roFlips := h.roFlips

/-- One primitive more: what it owes is its effect on the live bus, the registers, memory and the map. -/
theorem act {v : State} {d : Cpu} {x : Act} (h : Reaches s acts c u)
    (hlive : v.live = u.live.bind (x.play s.byteAt)) (hcpu : v.cpu = d)
    (hmem : v.mem = (stores [x]).foldl s.storeIn u.mem) (hro : v.roFlips = u.roFlips) :
    Reaches s (acts ++ [x]) d v where
  live := by
    rw [hlive, h.live, Option.bind_assoc, play_append]
    simp [play_cons, play_nil]
  cpu := hcpu
  mem := by rw [hmem, h.mem, State.memAfter_append]
  roFlips := hro.trans h.roFlips

theorem mr (h : Reaches s acts c u) (addr : Cpu → Word) (hs : stores acts = [] := by rfl) :
    Reaches s (acts ++ [.mr (addr c)]) c (Machine.mr (addr u.cpu) u) :=
  h.act (by rw [mr_live, h.cpu, h.byteAt_eq hs]; rfl) (by rw [mr_cpu, h.cpu]) (mr_mem _ u) (mr_roFlips _ u)

theorem mw (h : Reaches s acts c u) (addr : Cpu → Word) (val : Cpu → Byte) :
    Reaches s (acts ++ [.mw (addr c) (val c)]) c (Machine.mw (addr u.cpu) (val u.cpu) u) :=
  h.act (by rw [mw_live, h.cpu]; rfl) (by rw [mw_cpu, h.cpu]) (by rw [mw_mem, h.cpu, h.roFlips]; rfl)
    (mw_roFlips _ _ u)

theorem ic (h : Reaches s acts c u) (addr : Cpu → Word) (n : Nat) :
    Reaches s (acts ++ [.ic (addr c) n]) c (Machine.ic (addr u.cpu) n u) :=
  h.act (by rw [ic_live, h.cpu]; rfl) (by rw [ic_cpu, h.cpu]) (ic_mem _ n u) (ic_roFlips _ n u)

theorem icIR (h : Reaches s acts c u) (n : Nat) : Reaches s (acts ++ [.ic c.ir n]) c (Machine.icIR n u) :=
  h.ic Cpu.ir n

/-! ### Fetches -/

/-- The first opcode fetch. -/
theorem start (s : State) : Reaches s [.m1 s.cpu.pc] (s.cpu.fetched 1 1) (m1 s) where
  live := by simp [play_cons, play_nil, Act.play]
  cpu := by rw [m1_cpu, bumpRefresh_eq]; rfl
  mem := m1_mem s
  roFlips := m1_roFlips s

/-- The second opcode fetch; no instruction has a third. -/
theorem m1 {n : Nat} (h : Reaches s acts (s.cpu.fetched 1 n) u) (hs : stores acts = [] := by rfl) :
    Reaches s (acts ++ [.m1 (s.cpu.pc + BitVec.ofNat 16 n)]) (s.cpu.fetched 2 (n + 1)) (Machine.m1 u) :=
  h.act (by rw [m1_live, h.cpu, h.byteAt_eq hs]; rfl)
    (by simp [h.cpu, Cpu.fetched, bumpRefresh_eq, refreshed_refreshed_one, BitVec.ofNat_add, BitVec.add_assoc])
    (m1_mem u) (m1_roFlips u)

/-- An operand byte. -/
theorem mrPc {k n : Nat} (h : Reaches s acts (s.cpu.fetched k n) u) (hs : stores acts = [] := by rfl) :
    Reaches s (acts ++ [.mr (s.cpu.pc + BitVec.ofNat 16 n)]) (s.cpu.fetched k (n + 1)) (Machine.mrPc u) :=
  h.act (by rw [mrPc_live, h.cpu, h.byteAt_eq hs]; rfl)
    (by simp [h.cpu, Cpu.fetched, BitVec.ofNat_add, BitVec.add_assoc]) (mrPc_mem u) (mrPc_roFlips u)

/-! ### Loads and stores of bytes and words -/

/-- A byte read at `addr`, and what becomes of the registers with it. -/
theorem loadByte (h : Reaches s acts c u) (addr : Cpu → Word) (f : Byte → Cpu → Cpu)
    (hs : stores acts = [] := by rfl) :
    Reaches s (acts ++ [.mr (addr c)]) (f (s.byteAt (addr c)) c)
      ((Machine.mr (addr u.cpu) u).upd (f (u.byteAt (addr u.cpu)))) := by
  obtain rfl := h.cpu
  rw [h.byteAt_eq hs]
  exact (h.mr addr hs).upd (f (s.byteAt (addr u.cpu)))

/-- A word read at `nn`, low byte first, and what becomes of the registers with it. -/
theorem loadWord (h : Reaches s acts c u) (nn : Word) (f : Word → Cpu → Cpu) (hs : stores acts = [] := by rfl) :
    Reaches s (acts ++ [.mr nn] ++ [.mr (nn + 1)]) (f (s.wordAt nn) c) ((mr2 nn u).upd (f (u.wordAt nn))) := by
  have hl : stores (acts ++ [.mr nn]) = [] := by rw [stores_append, hs]; rfl
  rw [h.wordAt_eq hs]
  exact ((h.mr (fun _ => nn) hs).mr (fun _ => nn + 1) hl).upd (f (s.wordAt nn))

/-- A word stored at `nn`, low byte first. -/
theorem mw2 (h : Reaches s acts c u) (nn : Word) (val : Cpu → Word) :
    Reaches s (acts ++ [.mw nn (loByte (val c))] ++ [.mw (nn + 1) (hiByte (val c))]) c
      (Machine.mw2 nn (val u.cpu) u) := by
  have h1 := h.mw (fun _ => nn) (fun x => loByte (val x))
  have h2 := h1.mw (fun _ => nn + 1) (fun x => hiByte (val x))
  rwa [mw_cpu] at h2

/-- `A <- MR(addr)` with its MEMPTR (rules R205 to R207). -/
theorem loadA (h : Reaches s acts c u) (addr : Cpu → Word) (hs : stores acts = [] := by rfl) :
    Reaches s (acts ++ [.mr (addr c)]) { c with a := s.byteAt (addr c), memptr := addr c + 1 }
      (Machine.loadA (addr u.cpu) u) := by
  obtain rfl := h.cpu
  exact h.loadByte addr (fun v d => { d with a := v, memptr := addr u.cpu + 1 }) hs

/-- `MW(addr, A)` with its MEMPTR (rules R208 to R210). -/
theorem storeA (h : Reaches s acts c u) (addr : Cpu → Word) :
    Reaches s (acts ++ [.mw (addr c) c.a]) { c with memptr := join c.a (loByte (addr c) + 1) }
      (Machine.storeA (addr u.cpu) u) := by
  obtain rfl := h.cpu
  exact (h.mw addr Cpu.a).upd fun d => { d with memptr := join d.a (loByte (addr u.cpu) + 1) }

/-! ### The end of the step -/

variable {i : Instr}

theorem runsAs_endPlain (h : Reaches s (cycles i s) c u) (hx : exec i s = endPlain u) : RunsAs i s c.quiet :=
  runsAs_of (u.upd Cpu.quiet) hx
    (fun hf => by rw [upd_live, h.live, State.live_of_none hf]; rfl)
    (fun _ _ _ => ⟨congrArg Cpu.quiet h.cpu, h.mem⟩) h.roFlips

/-- The end that leaves `f` in F and in Q. -/
theorem runsAs_endFlags {f : Byte} (h : Reaches s (cycles i s) { c with f := f } u) (hx : exec i s = endFlags u) :
    RunsAs i s (c.flagged f) :=
  runsAs_of (u.upd fun d => d.flagged d.f) hx
    (fun hf => by rw [upd_live, h.live, State.live_of_none hf]; rfl)
    (fun _ _ _ => ⟨by rw [State.upd_cpu, h.cpu]; rfl, h.mem⟩) h.roFlips

end Reaches

end Sys2Proof.Machine
end

section
/-! PROOFS. Words and their halves as numbers, operands read behind the fetches, and the rotates and shifts of a byte. -/

namespace Sys2Proof.Machine

/-! ### Words and their halves -/

theorem join_toNat (h l : Byte) : (join h l).toNat = 256 * h.toNat + l.toNat := by
  rw [join, BitVec.toNat_append, ← Nat.shiftLeft_add_eq_or_of_lt l.isLt, Nat.shiftLeft_eq]
  omega

theorem toNat_eq_halves (w : Word) : w.toNat = 256 * (hiByte w).toNat + (loByte w).toNat := by
  rw [← join_toNat, join_hiByte_loByte]

theorem loByte_toNat (w : Word) : (loByte w).toNat = w.toNat % 256 := by
  have h := toNat_eq_halves w
  omega

/-! ### Operands read behind the fetches -/

theorem Cpu.getR_of_fetched (c : Cpu) (k n : Nat) (r : Reg8) : (c.fetched k n).getR r = c.getR r :=
  c.getR_fetched _ _ r

theorem Cpu.getRp_of_fetched (c : Cpu) (k n : Nat) (rr : Rp) : (c.fetched k n).getRp rr = c.getRp rr :=
  c.getRp_fetched _ _ rr

/-! ### Rotates and shifts of a byte (rules R325 to R332) -/

theorem parity_eq_countP (v : Byte) :
    parity v = decide (((List.range 8).countP fun k => v.getLsbD k) % 2 = 0) := by
  revert v; decide

theorem maskIf_bit7 (v : Byte) : maskIf (v.getLsbD 7) 0x01 = v >>> 7 := by revert v; decide
theorem maskIf_bit0 (v : Byte) : maskIf (v.getLsbD 0) 0x01 = v &&& 0x01 := by revert v; decide

theorem rotRlc_eq_rotateLeft (v : Byte) : (rotRlc v).1 = v.rotateLeft 1 := by revert v; decide
theorem rotRrc_eq_rotateRight (v : Byte) : (rotRrc v).1 = v.rotateRight 1 := by revert v; decide
theorem rotSla_eq_double (v : Byte) : (rotSla v).1 = v + v := by revert v; decide
theorem rotSra_eq_sshiftRight (v : Byte) : (rotSra v).1 = v.sshiftRight 1 := by revert v; decide
theorem rotSll_eq_double_add_one (v : Byte) : (rotSll v).1 = v + v + 1 := by revert v; decide

end Sys2Proof.Machine
end

section
/-! PROOFS. What the loads and the rotates and shifts of registers run as, and the statements they settle. -/

namespace Sys2Proof.Machine

/-! ### The 8-bit loads (rules R200 to R204) -/

theorem runsAs_ldRR (s : State) (r r2 : Reg8) :
    RunsAs (.ldRR r r2) s ((s.cpu.fetched 1 1).setR r (s.cpu.getR r2)).quiet := by
  rw [← Cpu.getR_of_fetched s.cpu 1 1 r2]
  exact ((Reaches.start s).upd fun c => c.setR r (c.getR r2)).runsAs_endPlain rfl

theorem runsAs_ldRN (s : State) (r : Reg8) (n : Byte) :
    RunsAs (.ldRN r n) s ((s.cpu.fetched 1 2).setR r n).quiet :=
  ((Reaches.start s).mrPc.upd fun c => c.setR r n).runsAs_endPlain rfl

theorem runsAs_ldRMhl (s : State) (r : Reg8) :
    RunsAs (.ldRMhl r) s ((s.cpu.fetched 1 1).setR r (s.byteAt s.cpu.hl)).quiet :=
  ((Reaches.start s).loadByte Cpu.hl fun v c => c.setR r v).runsAs_endPlain rfl

theorem runsAs_ldMhlR (s : State) (r : Reg8) : RunsAs (.ldMhlR r) s (s.cpu.fetched 1 1).quiet := by
  have h := (Reaches.start s).mw Cpu.hl fun c => c.getR r
  rw [Cpu.getR_of_fetched] at h
  exact h.runsAs_endPlain rfl

theorem runsAs_ldMhlN (s : State) (n : Byte) : RunsAs (.ldMhlN n) s (s.cpu.fetched 1 2).quiet :=
  ((Reaches.start s).mrPc.mw Cpu.hl fun _ => n).runsAs_endPlain rfl

/-! ### Rotates and shifts of a register (rules R324 to R332) -/

/-- A rotate or shift of a register. -/
theorem runsAs_rotOnR (rot : Bool → Byte → Byte × Bool) {i : Instr} {s : State} {r : Reg8} {res out : Byte}
    (hx : exec i s = rotOnR rot r s) (hcyc : cycles i s = [.m1 s.cpu.pc, .m1 (s.cpu.pc + 1)])
    (hres : (rot (flagC s.cpu.f) (s.cpu.getR r)).1 = res)
    (hout : maskIf (rot (flagC s.cpu.f) (s.cpu.getR r)).2 0x01 = out) :
    RunsAs i s (Cpu.flagged (sz53p res ||| out) ((s.cpu.fetched 2 2).setR r res)) := by
  have h := (Reaches.start s).m1.upd fun c =>
    { c.setR r (rot (flagC c.f) (c.getR r)).1 with f := rotFlags (rot (flagC c.f) (c.getR r)) }
  rw [Cpu.getR_of_fetched] at h
  subst hres hout
  exact Reaches.runsAs_endFlags (hcyc ▸ h) hx

end Sys2Proof.Machine

open Sys2Proof Sys2Proof.Machine

/-- Settles O26: each load is its fetch and one register write, each store its fetch and one byte at HL. -/
theorem loadsBetweenRegistersAndMemoryAtHl : Obligations.LoadsBetweenRegistersAndMemoryAtHl := by
  unfold Obligations.LoadsBetweenRegistersAndMemoryAtHl
  exact fun s => ⟨rfl, fun _ => rfl, join_toNat _ _, runsAs_ldRR s, runsAs_ldRN s, runsAs_ldRMhl s,
    fun r => ⟨rfl, runsAs_ldMhlR s r⟩, fun n => ⟨rfl, runsAs_ldMhlN s n⟩⟩

/-- Settles O27, by the rules for `loadA` and `storeA` behind one and three fetched bytes. -/
theorem accumulatorLoadsAndStores : Obligations.AccumulatorLoadsAndStores := by
  unfold Obligations.AccumulatorLoadsAndStores
  intro s nn
  have one := Reaches.start s
  have imm16 := one.mrPc.mrPc
  refine ⟨join_toNat _ _, join_toNat _ _, join_toNat, loByte_toNat nn, ?_, ?_, ?_, rfl, ?_, rfl, ?_, rfl, ?_⟩
  · exact (one.loadA Cpu.bc).runsAs_endPlain rfl
  · exact (one.loadA Cpu.de).runsAs_endPlain rfl
  · exact (imm16.loadA fun _ => nn).runsAs_endPlain rfl
  · have h := one.storeA Cpu.bc
    rw [Cpu.bc, loByte_join] at h
    exact h.runsAs_endPlain rfl
  · have h := one.storeA Cpu.de
    rw [Cpu.de, loByte_join] at h
    exact h.runsAs_endPlain rfl
  · exact (imm16.storeA fun _ => nn).runsAs_endPlain rfl

/-- Settles O28: all four run behind two opcode fetches, so `R` is read as `refreshed 2`. -/
theorem loadsOfInterruptVectorAndRefresh : Obligations.LoadsOfInterruptVectorAndRefresh := by
  unfold Obligations.LoadsOfInterruptVectorAndRefresh
  intro s
  have two := (Reaches.start s).m1.icIR 1
  refine ⟨fun v => by simp [sz53, maskIf], ?_, ?_, ?_, ?_⟩
  · exact (two.upd fun c => { c with a := c.i, f := ldAIRFlags c.i c.iff2 c.f }).runsAs_endFlags rfl
  · exact (two.upd fun c => { c with a := c.r, f := ldAIRFlags c.r c.iff2 c.f }).runsAs_endFlags rfl
  · exact (two.upd fun c => { c with i := c.a }).runsAs_endPlain rfl
  · exact (two.upd fun c => { c with r := c.a }).runsAs_endPlain rfl

/-- Settles O29, by the rules for a word loaded and a word stored, low byte first. -/
theorem pairLoadsAndStores : Obligations.PairLoadsAndStores := by
  unfold Obligations.PairLoadsAndStores
  intro s rr nn
  have one := Reaches.start s
  have imm16 := one.mrPc.mrPc
  have edImm16 := one.m1.mrPc.mrPc
  refine ⟨toNat_eq_halves nn, rfl, rfl, ?_, ?_, ?_, ?_, ?_, ?_, ?_, ?_⟩
  · exact (imm16.upd (Cpu.setRp rr nn)).runsAs_endPlain rfl
  · have h := imm16.loadWord nn fun w c => { c.setHl w with memptr := nn + 1 }
    rw [Cpu.setHl, State.wordAt, hiByte_join, loByte_join] at h
    exact h.runsAs_endPlain rfl
  · rfl
  · have h := (imm16.mw2 nn Cpu.hl).upd fun c => { c with memptr := nn + 1 }
    rw [Cpu.hl, hiByte_join, loByte_join] at h
    exact h.runsAs_endPlain rfl
  · exact (edImm16.loadWord nn fun w c => { c.setRp rr w with memptr := nn + 1 }).runsAs_endPlain rfl
  · rfl
  · have h := (edImm16.mw2 nn (Cpu.getRp rr)).upd fun c => { c with memptr := nn + 1 }
    rw [Cpu.getRp_of_fetched] at h
    exact h.runsAs_endPlain rfl
  · exact ((one.icIR 2).upd fun c => { c with sp := c.hl }).runsAs_endPlain rfl

/-- Settles O41: `runsAs_rotOnR` for each of the eight, with its result and its bit shifted out. -/
theorem rotatesAndShiftsOfRegisters : Obligations.RotatesAndShiftsOfRegisters := by
  unfold Obligations.RotatesAndShiftsOfRegisters
  refine ⟨fun v => ⟨parity_eq_countP v, by simp [sz53p, sz53, maskIf]⟩, ?_⟩
  rintro s r v cy c rfl rfl rfl
  refine ⟨?_, ?_, ?_, ?_, ?_, ?_, ?_, ?_⟩ <;> rintro res rfl
  · exact runsAs_rotOnR (fun _ => rotRlc) rfl rfl (rotRlc_eq_rotateLeft _) (maskIf_bit7 _)
  · exact runsAs_rotOnR (fun _ => rotRrc) rfl rfl (rotRrc_eq_rotateRight _) (maskIf_bit0 _)
  · exact runsAs_rotOnR rotRl rfl rfl rfl (maskIf_bit7 _)
  · exact runsAs_rotOnR rotRr rfl rfl rfl (maskIf_bit0 _)
  · exact runsAs_rotOnR (fun _ => rotSla) rfl rfl (rotSla_eq_double _) (maskIf_bit7 _)
  · exact runsAs_rotOnR (fun _ => rotSra) rfl rfl (rotSra_eq_sshiftRight _) (maskIf_bit0 _)
  · exact runsAs_rotOnR (fun _ => rotSll) rfl rfl (rotSll_eq_double_add_one _) (maskIf_bit7 _)
  · exact runsAs_rotOnR (fun _ => rotSrl) rfl rfl rfl (maskIf_bit0 _)

end

section
/-! PROOFS. The 16-bit operations on IX and IY. -/

namespace Sys2Proof.Machine

theorem Cpu.getXy_of_fetched (c : Cpu) (k n : Nat) (x : XY) : (c.fetched k n).getXy x = c.getXy x :=
  c.getXy_fetched _ _ x

theorem Cpu.getRpXY_of_fetched (c : Cpu) (k n : Nat) (x : XY) (rr : RpXY) :
    (c.fetched k n).getRpXY x rr = c.getRpXY x rr := c.getRpXY_fetched _ _ x rr

/-- A change of the registers computed from XY, which the fetches leave as it was. -/
theorem Reaches.updXy {s u : State} {acts : List Act} {k n : Nat} (h : Reaches s acts (s.cpu.fetched k n) u) (x : XY)
    (f : Word → Cpu → Cpu) :
    Reaches s acts (f (s.cpu.getXy x) (s.cpu.fetched k n)) (u.upd fun c => f (c.getXy x) c) := by
  have h' := h.upd fun c => f (c.getXy x) c
  rwa [Cpu.getXy_of_fetched] at h'

/-- The 16-bit sum of rule R300 is addition modulo 65536. -/
theorem add16_fst (a b : Word) (f : Byte) : (add16 a b f).1 = a + b := by
  simp [add16, BitVec.ofNat_add]

end Sys2Proof.Machine

open Sys2Proof Sys2Proof.Machine

/-- Settles O54: each form runs behind two opcode fetches, which leave the index pair as it was. -/
theorem sixteenBitOperationsOnIndexRegisters : Obligations.SixteenBitOperationsOnIndexRegisters := by
  unfold Obligations.SixteenBitOperationsOnIndexRegisters
  rintro s x rr nn _ _ rfl rfl
  have two := (Reaches.start s).m1
  have edImm16 := two.mrPc.mrPc
  refine ⟨⟨rfl, rfl, rfl, rfl⟩, rfl, ?_, ?_, rfl, ?_, ?_, ?_, ?_, ?_⟩
  · exact (edImm16.upd (Cpu.setXy x nn)).runsAs_endPlain rfl
  · exact (edImm16.loadWord nn fun w c => { c.setXy x w with memptr := nn + 1 }).runsAs_endPlain rfl
  · have h := (edImm16.mw2 nn (Cpu.getXy x)).upd fun c => { c with memptr := nn + 1 }
    rw [Cpu.getXy_of_fetched] at h
    exact h.runsAs_endPlain rfl
  · have h := (two.icIR 7).updXy x fun w c =>
      { c.setXy x (add16 w (c.getRpXY x rr) c.f).1 with f := (add16 w (c.getRpXY x rr) c.f).2, memptr := w + 1 }
    rw [Cpu.getRpXY_of_fetched, add16_fst] at h
    exact h.runsAs_endFlags rfl
  · exact ((two.icIR 2).updXy x fun w c => c.setXy x (w + 1)).runsAs_endPlain rfl
  · exact ((two.icIR 2).updXy x fun w c => c.setXy x (w - 1)).runsAs_endPlain rfl
  · exact ((two.icIR 2).updXy x fun w c => { c with sp := w }).runsAs_endPlain rfl

end

section
/-! PROOFS. The registers no operand names, and the rules that say which operations leave them alone. `Kept q k s v`
says that `v` stands behind `k` opcode fetches from `s` and behind register writes that leave those registers, and where
`q` holds also F, as they were. Every primitive keeps the relation. -/

namespace Sys2Proof.Machine

/-! ### The frame -/

/-- The registers no register operand names: the shadow set, I, R, IM, the interrupt enables and HALT. -/
structure Frame where
  aAlt : Byte
  fAlt : Byte
  bAlt : Byte
  cAlt : Byte
  dAlt : Byte
  eAlt : Byte
  hAlt : Byte
  lAlt : Byte
  i : Byte
  r : Byte
  im : IntMode
  iff1 : Bool
  iff2 : Bool
  halt : Bool

/-- The frame of a register file. -/
def Cpu.frame (c : Cpu) : Frame :=
  { aAlt := c.aAlt, fAlt := c.fAlt, bAlt := c.bAlt, cAlt := c.cAlt, dAlt := c.dAlt, eAlt := c.eAlt, hAlt := c.hAlt
    lAlt := c.lAlt, i := c.i, r := c.r, im := c.im, iff1 := c.iff1, iff2 := c.iff2, halt := c.halt }

/-- The frame with R behind `k` opcode fetches (rule R48). -/
def Frame.fetched (k : Nat) (x : Frame) : Frame := { x with r := refreshed k x.r }

/-- A change of the registers that leaves the frame alone. -/
def KeepsFrame (g : Cpu → Cpu) : Prop := ∀ c, (g c).frame = c.frame

/-- A change of the registers that leaves the frame and F alone. -/
def Quiet (g : Cpu → Cpu) : Prop := ∀ c, (g c).frame = c.frame ∧ (g c).f = c.f

theorem Quiet.withMemptr {g : Cpu → Cpu} (hg : Quiet g) (m : Cpu → Word) :
    Quiet fun c => { g c with memptr := m c } := hg

theorem KeepsFrame.withFlags {g : Cpu → Cpu} (hg : KeepsFrame g) (f : Cpu → Byte) (m : Cpu → Word) :
    KeepsFrame fun c => { g c with f := f c, memptr := m c } := hg

theorem Quiet.keepsFrame {g : Cpu → Cpu} (hg : Quiet g) : KeepsFrame g := fun c => (hg c).1

theorem keepsFrame_setAcc (rf : Cpu → Byte × Byte) : KeepsFrame fun c => c.setAcc (rf c) := fun _ => rfl

theorem quiet_setR (r : Reg8) (v : Cpu → Byte) : Quiet fun c => c.setR r (v c) :=
  fun c => by cases r <;> exact ⟨rfl, rfl⟩

theorem quiet_setRp (rr : Rp) (w : Cpu → Word) : Quiet fun c => c.setRp rr (w c) :=
  fun c => by cases rr <;> exact ⟨rfl, rfl⟩

theorem quiet_setXy (x : XY) (w : Cpu → Word) : Quiet fun c => c.setXy x (w c) :=
  fun c => by cases x <;> exact ⟨rfl, rfl⟩

theorem quiet_setHalf (x : XY) (k : Half) (v : Cpu → Byte) : Quiet fun c => c.setHalf x k (v c) := by
  cases k <;> exact quiet_setXy x _

theorem quiet_setRx (x : XY) (r : Reg8) (v : Cpu → Byte) : Quiet fun c => c.setRx x r (v c) := by
  cases r
  case h => exact quiet_setHalf x .high v
  case l => exact quiet_setHalf x .low v
  all_goals exact fun c => ⟨rfl, rfl⟩

theorem quiet_setCopy (cp : Option Reg8) (v : Cpu → Byte) : Quiet fun c => c.setCopy cp (v c) := by
  cases cp with
  | none => exact fun c => ⟨rfl, rfl⟩
  | some r => exact quiet_setR r v

/-! ### The relation and its rules -/

/-- `v` stands behind `k` opcode fetches from `s` and register writes that leave the frame alone, and F too where `q`
is true. A fault of `s` still stands. -/
structure Kept (q : Bool) (k : Nat) (s v : State) : Prop where
  frame : v.cpu.frame = s.cpu.frame.fetched k
  f : q = true → v.cpu.f = s.cpu.f
  stuck : s.live = none → v.live = none

namespace Kept

variable {q : Bool} {k : Nat} {s v w : State}

/-- The first opcode fetch. -/
theorem start (s : State) : Kept true 1 s (m1 s) where
  frame := by rw [m1_cpu, bumpRefresh_eq]; rfl
  f _ := by rw [m1_cpu]
  stuck h := by simp [h]

/-- The second opcode fetch. -/
theorem m1 (h : Kept q 1 s v) : Kept q 2 s (Machine.m1 v) where
  frame := by
    rw [m1_cpu, bumpRefresh_eq]
    calc ({ v.cpu with r := refreshed 1 v.cpu.r, pc := v.cpu.pc + 1 } : Cpu).frame
        = v.cpu.frame.fetched 1 := rfl
      _ = (s.cpu.frame.fetched 1).fetched 1 := by rw [h.frame]
      _ = s.cpu.frame.fetched 2 := by simp only [Frame.fetched, refreshed_refreshed_one]
  f hq := by rw [m1_cpu]; exact h.f hq
  stuck hs := by simp [h.stuck hs]

/-- A change of the registers that leaves the frame and F alone. -/
theorem upd (h : Kept q k s v) {g : Cpu → Cpu} (hg : Quiet g := by intro; exact ⟨rfl, rfl⟩) :
    Kept q k s (v.upd g) where
  frame := (hg v.cpu).1.trans h.frame
  f hq := (hg v.cpu).2.trans (h.f hq)
  stuck := h.stuck

/-- A change of the registers that leaves the frame alone and may write F. -/
theorem updF (h : Kept q k s v) {g : Cpu → Cpu} (hg : KeepsFrame g := by intro; rfl) :
    Kept false k s (v.upd g) where
  frame := (hg v.cpu).trans h.frame
  f hq := nomatch hq
  stuck := h.stuck

/-- A primitive that does not touch the registers. -/
theorem prim (h : Kept q k s v) (hcpu : w.cpu = v.cpu) (hlive : v.live = none → w.live = none) : Kept q k s w where
  frame := hcpu ▸ h.frame
  f hq := hcpu ▸ h.f hq
  stuck hs := hlive (h.stuck hs)

theorem mr (h : Kept q k s v) {a : Word} : Kept q k s (Machine.mr a v) :=
  h.prim (mr_cpu a v) fun hv => by simp [hv]

theorem mw (h : Kept q k s v) {a : Word} {x : Byte} : Kept q k s (Machine.mw a x v) :=
  h.prim (mw_cpu a x v) fun hv => by simp [hv]

theorem ic (h : Kept q k s v) {a : Word} {n : Nat} : Kept q k s (Machine.ic a n v) :=
  h.prim (ic_cpu a n v) fun hv => by simp [hv]

theorem ior (h : Kept q k s v) {p : Word} : Kept q k s (Machine.ior p v) :=
  h.prim (ior_cpu p v) fun hv => by simp [hv]

theorem iow (h : Kept q k s v) {p : Word} {x : Byte} : Kept q k s (Machine.iow p x v) :=
  h.prim (iow_cpu p x v) fun hv => by simp [hv]

/-- A branch: either side keeps the relation. -/
theorem ite {c : Prop} [Decidable c] (hv : Kept q k s v) (hw : Kept q k s w) : Kept q k s (if c then v else w) := by
  split
  · exact hv
  · exact hw

/-! ### The operations made of primitives -/

theorem mrPc (h : Kept q k s v) : Kept q k s (Machine.mrPc v) := h.mr.upd

theorem icIR (h : Kept q k s v) {n : Nat} : Kept q k s (Machine.icIR n v) := h.ic

theorem mr2 (h : Kept q k s v) {a : Word} : Kept q k s (Machine.mr2 a v) := h.mr.mr

theorem mw2 (h : Kept q k s v) {a x : Word} : Kept q k s (Machine.mw2 a x v) := h.mw.mw

theorem pushByte (h : Kept q k s v) {x : Byte} : Kept q k s (Machine.pushByte x v) := h.upd.mw

theorem push (h : Kept q k s v) {x : Word} : Kept q k s (Machine.push x v) := h.pushByte.pushByte

theorem popByte (h : Kept q k s v) : Kept q k s (Machine.popByte v) := h.mr.upd

theorem pop (h : Kept q k s v) : Kept q k s (Machine.pop v) := h.popByte.popByte

theorem jumpTo (h : Kept q k s v) {x : Word} : Kept q k s (Machine.jumpTo x v) := h.upd

theorem setMemptr (h : Kept q k s v) {x : Word} : Kept q k s (Machine.setMemptr x v) := h.upd

theorem returnFromCall (h : Kept q k s v) : Kept q k s (Machine.returnFromCall v) := h.pop.jumpTo

theorem loadA (h : Kept q k s v) {a : Word} : Kept q k s (Machine.loadA a v) := by
  simp only [Machine.loadA]
  exact h.mr.upd

theorem storeA (h : Kept q k s v) {a : Word} : Kept q k s (Machine.storeA a v) := h.mw.upd

theorem modifyByte (h : Kept q k s v) {a : Word} {x : Byte} : Kept q k s (Machine.modifyByte a x v) := h.mr.ic.mw

theorem swapTop (h : Kept q k s v) {x : Word} : Kept q k s (Machine.swapTop x v) := h.mr2.ic.mw.mw.ic

theorem jumpRelative (h : Kept q k s v) {e : Byte} : Kept q k s (Machine.jumpRelative e v) := h.ic.jumpTo

theorem callTo (h : Kept q k s v) {x : Word} : Kept q k s (Machine.callTo x v) := h.ic.push.jumpTo

theorem repeatAt (h : Kept q k s v) {pc a : Word} : Kept q k s (Machine.repeatAt pc a v) := h.ic.upd

theorem ldBlock (h : Kept q k s v) {d : Word} : Kept false k s (Machine.ldBlock d v) := by
  simp only [Machine.ldBlock]
  exact h.mr.mw.ic.updF

theorem cpBlock (h : Kept q k s v) {d : Word} : Kept false k s (Machine.cpBlock d v) := by
  simp only [Machine.cpBlock]
  exact h.mr.ic.updF

theorem inBlock (h : Kept q k s v) {d : Word} : Kept false k s (Machine.inBlock d v) := by
  simp only [Machine.inBlock]
  exact h.icIR.ior.mw.updF

theorem outBlock (h : Kept q k s v) {d : Word} : Kept false k s (Machine.outBlock d v) := by
  simp only [Machine.outBlock]
  exact h.icIR.mr.iow.updF

theorem fetchXyD (s : State) : Kept true 2 s (Machine.fetchXyD s) := (start s).m1.mrPc.ic

theorem fetchXyCb (s : State) : Kept true 2 s (Machine.fetchXyCb s) := (start s).m1.mrPc.mrPc.ic

theorem modifyXyByte (h : Kept q k s v) {a : Word} {x : Byte} {cp : Option Reg8} :
    Kept q k s (Machine.modifyXyByte a x cp v) := h.setMemptr.modifyByte.upd (quiet_setCopy cp fun _ => x)

end Kept

end Sys2Proof.Machine
end

section
/-! PROOFS. How every instruction ends: by its Q line, and with the frame that `frameAfter` writes out. The arms are
read off their primitives once, in `exec_ends`; the statements about the frame, Q, F, EI_SHADOW and faults follow. -/

namespace Sys2Proof.Machine

/-! ### The end of every instruction -/

/-- The instructions that set EI_SHADOW (rules R432, R519). -/
def setsShadow : Instr → Bool
  | .ei | .lonePrefix _ _ => true
  | _ => false

theorem setsShadow_iff {i : Instr} : setsShadow i = true ↔ i = .ei ∨ ∃ x q, i = .lonePrefix x q := by
  unfold setsShadow
  split
  · simp
  · simp
  · next hei hlone => simpa using ⟨hei, fun x q => hlone x q⟩

theorem writesFlags_of_setsShadow {i : Instr} (h : setsShadow i = true) : writesFlags i = false := by
  obtain rfl | ⟨x, q, rfl⟩ := setsShadow_iff.mp h
  · rfl
  · rfl

/-- The end of an instruction, by its Q line (rules R50, R54). -/
def closing (i : Instr) (v : State) : Result :=
  if setsShadow i then endShadow v else if writesFlags i then endFlags v else endPlain v

/-- The registers behind the end of an instruction. -/
def Cpu.closed (i : Instr) (c : Cpu) : Cpu :=
  { c with q := if writesFlags i then c.f else 0, eiShadow := setsShadow i }

theorem eq_of_closing_eq_next {i : Instr} {v u : State} (h : closing i v = .next u) :
    u = v.upd fun c => c.closed i := by
  unfold closing at h
  split at h
  · next hs => simpa [hs, writesFlags_of_setsShadow hs, Cpu.closed] using (outcome_eq_next.mp h).2
  · next hs =>
    split at h
    · next hw => simpa [hs, hw, Cpu.closed] using (outcome_eq_next.mp h).2
    · next hw => simpa [hs, hw, Cpu.closed] using (outcome_eq_next.mp h).2

theorem closing_of_live_none {i : Instr} {v : State} (h : v.live = none) :
    closing i v = .fault .contentionOverrun := by
  unfold closing
  split
  · exact outcome_of_live_none h
  · split <;> exact outcome_of_live_none h

/-- The frame behind an instruction. -/
def frameAfter (i : Instr) (s : State) : Frame :=
  let c := s.cpu
  let x := c.frame.fetched (opcodeFetches (cycles i s))
  match i with
  | .ldRA => { x with r := c.a }
  | .ldIA => { x with i := c.a }
  | .exAfAf => { x with aAlt := c.a, fAlt := c.f }
  | .exx => { x with bAlt := c.b, cAlt := c.c, dAlt := c.d, eAlt := c.e, hAlt := c.h, lAlt := c.l }
  | .reti | .retn _ => { x with iff1 := c.iff2 }
  | .di => { x with iff1 := false, iff2 := false }
  | .ei => { x with iff1 := true, iff2 := true }
  | .im0 _ => { x with im := .im0 }
  | .im1 _ => { x with im := .im1 }
  | .im2 _ => { x with im := .im2 }
  | .halt => { x with halt := true }
  | _ => x

/-- Whether an instruction whose Q line says 0 replaces F (rules R227, R230). -/
def replacesF : Instr → Bool
  | .popQq .af | .exAfAf => true
  | _ => false

theorem replacesF_eq_false {i : Instr} (hpop : i ≠ .popQq .af) (hex : i ≠ .exAfAf) : replacesF i = false := by
  unfold replacesF
  split
  · exact absurd rfl hpop
  · exact absurd rfl hex
  · rfl

/-- `v` is the state an instruction reaches before its end. -/
structure Ends (i : Instr) (s v : State) : Prop where
  exec_eq : exec i s = closing i v
  fetches : opcodeFetches (cycles i s) = 1 ∨ opcodeFetches (cycles i s) = 2
  frame : v.cpu.frame = frameAfter i s
  f : writesFlags i = false → replacesF i = false → v.cpu.f = s.cpu.f
  stuck : s.live = none → v.live = none

/-- The cycles of a taken branch hold no opcode fetch. -/
theorem opcodeFetches_takenActs (xs acts : List Act) (b : Bool) (h : opcodeFetches acts = 0 := by rfl) :
    opcodeFetches (xs ++ takenActs b acts) = opcodeFetches xs := by
  have ht : opcodeFetches (takenActs b acts) = 0 := by
    cases b
    · rfl
    · exact h
  rw [opcodeFetches, List.countP_append]
  exact congrArg (opcodeFetches xs + ·) ht

/-- Nor do those of a looping iteration. -/
theorem opcodeFetches_loopActs (xs : List Act) (b : Bool) (a : Word) :
    opcodeFetches (xs ++ loopActs b a) = opcodeFetches xs := opcodeFetches_takenActs xs [.ic a 5] b

variable {i : Instr} {k : Nat} {q : Bool} {s u v : State}

/-- The end of an instruction that keeps the frame. All but the first two hypotheses hold by evaluation where `i` is a
constructor; a branching Cycles line needs `hk` proved. -/
theorem exists_ends (close : State → Result) (hx : exec i s = close v) (h : Kept q k s v)
    (hk : opcodeFetches (cycles i s) = k := by rfl)
    (hi : frameAfter i s = s.cpu.frame.fetched (opcodeFetches (cycles i s)) := by rfl)
    (hc : closing i v = close v := by rfl)
    (hq : (writesFlags i || replacesF i) = !q := by rfl) (hk2 : k = 1 ∨ k = 2 := by decide) :
    ∃ v, Ends i s v :=
  ⟨v, {
    exec_eq := hx.trans hc.symm
    fetches := hk.symm ▸ hk2
    frame := by rw [h.frame, hi, hk]
    f := fun hw hr => h.f (by simpa [hw, hr] using hq.symm)
    stuck := h.stuck }⟩

/-- The end of an instruction that writes the frame, in its last change of the registers. -/
theorem exists_ends_upd (close : State → Result) {g : Cpu → Cpu} {c : Cpu} (hx : exec i s = close (v.upd g))
    (h : Kept q k s v) (hcpu : v.cpu = c)
    (hk : opcodeFetches (cycles i s) = k := by rfl) (hg : (g c).frame = frameAfter i s := by rfl)
    (hc : closing i (v.upd g) = close (v.upd g) := by rfl)
    (hf : replacesF i = false → (g c).f = s.cpu.f := by intro; rfl) (hk2 : k = 1 ∨ k = 2 := by decide) :
    ∃ v, Ends i s v :=
  ⟨v.upd g, {
    exec_eq := hx.trans hc.symm
    fetches := hk.symm ▸ hk2
    frame := by rw [State.upd_cpu, hcpu, hg]
    f := fun _ hr => by rw [State.upd_cpu, hcpu, hf hr]
    stuck := h.stuck }⟩

/-- Every instruction ends as its Q line says, with the frame that `frameAfter` writes out. Each arm names the end, and
behind the fetch its meaning's primitives in order. -/
theorem exec_ends (i : Instr) (s : State) : ∃ v, Ends i s v := by
  have one := Kept.start s
  have two := one.m1
  have imm8 := one.mrPc
  have imm16 := imm8.mrPc
  have edImm16 := two.mrPc.mrPc
  have xyD := Kept.fetchXyD s
  have xyCb := Kept.fetchXyCb s
  have cpu1 : (m1 s).cpu = s.cpu.fetched 1 1 := (Reaches.start s).cpu
  have cpu2 : (m1 (m1 s)).cpu = s.cpu.fetched 2 2 := (Reaches.start s).m1.cpu
  cases i with
  -- 8-bit loads
  | ldRR r r2 => exact exists_ends endPlain rfl (one.upd (quiet_setR r _))
  | ldRN r n => exact exists_ends endPlain rfl (imm8.upd (quiet_setR r _))
  | ldRMhl r => exact exists_ends endPlain rfl (one.mr.upd (quiet_setR r _))
  | ldMhlR r => exact exists_ends endPlain rfl one.mw
  | ldMhlN n => exact exists_ends endPlain rfl imm8.mw
  | ldAMbc | ldAMde => exact exists_ends endPlain rfl one.loadA
  | ldAMnn nn => exact exists_ends endPlain rfl imm16.loadA
  | ldMbcA | ldMdeA => exact exists_ends endPlain rfl one.storeA
  | ldMnnA nn => exact exists_ends endPlain rfl imm16.storeA
  | ldAI | ldAR => exact exists_ends endFlags rfl two.icIR.updF
  | ldIA | ldRA => exact exists_ends_upd endPlain rfl two.icIR ((icIR_cpu 1 _).trans cpu2)
  -- 16-bit loads, stack and exchange
  | ldRpNn rr nn => exact exists_ends endPlain rfl (imm16.upd (quiet_setRp rr _))
  | ldHlMnn nn => exact exists_ends endPlain rfl imm16.mr2.upd
  | ldMnnHl nn => exact exists_ends endPlain rfl imm16.mw2.upd
  | ldRpMnn rr nn => exact exists_ends endPlain rfl (edImm16.mr2.upd ((quiet_setRp rr _).withMemptr _))
  | ldMnnRp rr nn => exact exists_ends endPlain rfl edImm16.mw2.upd
  | ldSpHl => exact exists_ends endPlain rfl one.icIR.upd
  | pushQq qq => exact exists_ends endPlain rfl one.icIR.push
  | popQq qq =>
    cases qq with
    | bc | de | hl => exact exists_ends endPlain rfl one.pop.upd
    | af => exact exists_ends endPlain rfl one.pop.updF
  | exDeHl => exact exists_ends endPlain rfl one.upd
  | exMspHl => exact exists_ends endPlain rfl one.swapTop.upd
  | exAfAf => exact exists_ends_upd endPlain rfl one cpu1 (hf := fun h => nomatch h)
  | exx => exact exists_ends_upd endPlain rfl one cpu1
  -- 8-bit arithmetic and logic
  | addAR r | adcAR r | subR r | sbcAR r | andR r | xorR r | orR r | cpR r =>
    exact exists_ends endFlags rfl (one.updF (keepsFrame_setAcc _))
  | addAN n | adcAN n | subN n | sbcAN n | andN n | xorN n | orN n | cpN n =>
    exact exists_ends endFlags rfl (imm8.updF (keepsFrame_setAcc _))
  | addAMhl | adcAMhl | subMhl | sbcAMhl | andMhl | xorMhl | orMhl | cpMhl =>
    exact exists_ends endFlags rfl (one.mr.updF (keepsFrame_setAcc _))
  | incR r | decR r => exact exists_ends endFlags rfl (one.updF ((quiet_setR r _).keepsFrame.withFlags _ _))
  | incMhl | decMhl => exact exists_ends endFlags rfl one.modifyByte.updF
  | daa | cpl | scf | ccf => exact exists_ends endFlags rfl one.updF
  | neg y => exact exists_ends endFlags rfl two.updF
  -- 16-bit arithmetic
  | addHlRp rr => exact exists_ends endFlags rfl one.icIR.updF
  | adcHlRp rr | sbcHlRp rr => exact exists_ends endFlags rfl two.icIR.updF
  | incRp rr | decRp rr => exact exists_ends endPlain rfl (one.icIR.upd (quiet_setRp rr _))
  -- rotates, shifts and bit operations
  | rlca | rrca | rla | rra => exact exists_ends endFlags rfl one.updF
  | rlcR r | rrcR r | rlR r | rrR r | slaR r | sraR r | sllR r | srlR r =>
    exact exists_ends endFlags rfl (two.updF ((quiet_setR r _).keepsFrame.withFlags _ _))
  | rlcMhl | rrcMhl | rlMhl | rrMhl | slaMhl | sraMhl | sllMhl | srlMhl =>
    exact exists_ends endFlags rfl two.modifyByte.updF
  | bitR b r => exact exists_ends endFlags rfl two.updF
  | bitMhl b => exact exists_ends endFlags rfl two.mr.ic.updF
  | resR b r | setR b r => exact exists_ends endPlain rfl (two.upd (quiet_setR r _))
  | resMhl b | setMhl b => exact exists_ends endPlain rfl two.modifyByte
  | rld | rrd => exact exists_ends endFlags rfl two.mr.ic.mw.updF
  -- jumps, calls, returns and restarts
  | jp nn => exact exists_ends endPlain rfl imm16.jumpTo
  | jpCc cc nn => exact exists_ends endPlain rfl imm16.upd
  | jr e => exact exists_ends endPlain rfl imm8.jumpRelative
  | jrCc cc e => exact exists_ends endPlain rfl (imm8.jumpRelative.ite imm8) (opcodeFetches_takenActs _ _ _)
  | djnz e =>
    have dec := (one.icIR (n := 1)).mrPc.upd (g := fun c => { c with b := c.b - 1 })
    exact exists_ends endPlain rfl (dec.jumpRelative.ite dec) (opcodeFetches_takenActs _ _ _)
  | jpHl => exact exists_ends endPlain rfl one.upd
  -- `execCall` is named so that unification stops there and does not run the push.
  | call nn => exact exists_ends endPlain (show execCall nn s = _ from rfl) imm16.callTo
  | callCc cc nn => exact exists_ends endPlain rfl (imm16.callTo.ite imm16.upd) (opcodeFetches_takenActs _ _ _)
  | ret => exact exists_ends endPlain rfl one.returnFromCall
  | retCc cc => exact exists_ends endPlain rfl (one.icIR.returnFromCall.ite one.icIR) (opcodeFetches_takenActs _ _ _)
  | retn y | reti => exact exists_ends_upd endPlain rfl two.returnFromCall (by rw [returnFromCall_cpu, cpu2])
  | rst y => exact exists_ends endPlain rfl one.icIR.push.jumpTo
  -- block transfer, search and I/O
  | ldi | ldd => exact exists_ends endFlags rfl two.ldBlock
  | ldir | lddr =>
    exact exists_ends endFlags rfl (two.ldBlock.repeatAt.ite two.ldBlock) (opcodeFetches_loopActs _ _ _)
  | cpi | cpd => exact exists_ends endFlags rfl two.cpBlock
  | cpir | cpdr =>
    exact exists_ends endFlags rfl (two.cpBlock.repeatAt.ite two.cpBlock) (opcodeFetches_loopActs _ _ _)
  | ini | ind => exact exists_ends endFlags rfl two.inBlock
  | inir | indr =>
    exact exists_ends endFlags rfl (two.inBlock.repeatAt.ite two.inBlock) (opcodeFetches_loopActs _ _ _)
  | outi | outd => exact exists_ends endFlags rfl two.outBlock
  | otir | otdr =>
    exact exists_ends endFlags rfl (two.outBlock.repeatAt.ite two.outBlock) (opcodeFetches_loopActs _ _ _)
  -- I/O and CPU control
  | inAMn n => exact exists_ends endPlain rfl imm8.ior.upd
  | inRC r => exact exists_ends endFlags rfl (two.ior.updF ((quiet_setR r _).keepsFrame.withFlags _ _))
  | inFC => exact exists_ends endFlags rfl two.ior.updF
  | outMnA n => exact exists_ends endPlain rfl imm8.iow.upd
  | outCR r | outC0 => exact exists_ends endPlain rfl two.iow.upd
  | nop => exact exists_ends endPlain rfl one
  | halt | di => exact exists_ends_upd endPlain rfl one cpu1
  | ei => exact exists_ends_upd endShadow rfl one cpu1
  | im0 y | im1 y | im2 y => exact exists_ends_upd endPlain rfl two cpu2
  | edNop o => exact exists_ends endPlain rfl two
  -- index-register instructions
  | ldXyNn x nn => exact exists_ends endPlain rfl (edImm16.upd (quiet_setXy x _))
  | ldXyMnn x nn => exact exists_ends endPlain rfl (edImm16.mr2.upd ((quiet_setXy x _).withMemptr _))
  | ldMnnXy x nn => exact exists_ends endPlain rfl edImm16.mw2.setMemptr
  | addXyRp x rr => exact exists_ends endFlags rfl (two.icIR.updF ((quiet_setXy x _).keepsFrame.withFlags _ _))
  | incXy x | decXy x => exact exists_ends endPlain rfl (two.icIR.upd (quiet_setXy x _))
  | incHalf x k | decHalf x k =>
    exact exists_ends endFlags rfl (two.updF ((quiet_setHalf x k _).keepsFrame.withFlags _ _))
  | ldHalfN x k n => exact exists_ends endPlain rfl (two.mrPc.upd (quiet_setHalf x k _))
  | incMxy x d | decMxy x d => exact exists_ends endFlags rfl xyD.setMemptr.modifyByte.updF
  | ldMxyN x d n => exact exists_ends endPlain rfl xyCb.setMemptr.mw
  | ldRRHalf x r r2 => exact exists_ends endPlain rfl (two.upd (quiet_setRx x r _))
  | ldRMxy x r d => exact exists_ends endPlain rfl (xyD.setMemptr.mr.upd (quiet_setR r _))
  | ldMxyR x r d => exact exists_ends endPlain rfl xyD.setMemptr.mw
  | pushXy x => exact exists_ends endPlain rfl two.icIR.push
  | popXy x => exact exists_ends endPlain rfl (two.pop.upd (quiet_setXy x _))
  | exMspXy x => exact exists_ends endPlain rfl (two.swapTop.upd ((quiet_setXy x _).withMemptr _))
  | jpXy x => exact exists_ends endPlain rfl two.upd
  | ldSpXy x => exact exists_ends endPlain rfl two.icIR.upd
  | addAHalf x k | adcAHalf x k | subHalf x k | sbcAHalf x k | andHalf x k | xorHalf x k | orHalf x k | cpHalf x k =>
    exact exists_ends endFlags rfl (two.updF (keepsFrame_setAcc _))
  | addAMxy x d | adcAMxy x d | subMxy x d | sbcAMxy x d | andMxy x d | xorMxy x d | orMxy x d | cpMxy x d =>
    exact exists_ends endFlags rfl (xyD.setMemptr.mr.updF (keepsFrame_setAcc _))
  | rlcMxy x d cp | rrcMxy x d cp | rlMxy x d cp | rrMxy x d cp | slaMxy x d cp | sraMxy x d cp | sllMxy x d cp
  | srlMxy x d cp => exact exists_ends endFlags rfl xyCb.modifyXyByte.updF
  | bitMxy x d b z => exact exists_ends endFlags rfl xyCb.setMemptr.mr.ic.updF
  | resMxy x d b cp | setMxy x d b cp => exact exists_ends endPlain rfl xyCb.modifyXyByte
  | lonePrefix x q => exact exists_ends endShadow rfl one

/-! ### What a completed instruction leaves -/

/-- A completed instruction is its end applied to the state `exec_ends` gives. -/
theorem exists_ends_of_exec_next (h : exec i s = .next u) :
    ∃ v, Ends i s v ∧ u = v.upd fun c => c.closed i := by
  obtain ⟨v, hv⟩ := exec_ends i s
  exact ⟨v, hv, eq_of_closing_eq_next (hv.exec_eq.symm.trans h)⟩

theorem frame_of_exec_next (h : exec i s = .next u) : u.cpu.frame = frameAfter i s := by
  obtain ⟨v, hv, rfl⟩ := exists_ends_of_exec_next h
  exact hv.frame

theorem eiShadow_of_exec_next (h : exec i s = .next u) : u.cpu.eiShadow = setsShadow i := by
  obtain ⟨v, -, rfl⟩ := exists_ends_of_exec_next h
  rfl

theorem q_of_exec_next (h : exec i s = .next u) : u.cpu.q = if writesFlags i then u.cpu.f else 0 := by
  obtain ⟨v, -, rfl⟩ := exists_ends_of_exec_next h
  rfl

theorem f_of_exec_next (h : exec i s = .next u) (hw : writesFlags i = false) (hr : replacesF i = false) :
    u.cpu.f = s.cpu.f := by
  obtain ⟨v, hv, rfl⟩ := exists_ends_of_exec_next h
  exact hv.f hw hr

theorem live_of_fault {r : Fault} (h : s.fault = some r) : s.live = none := by simp [State.live, h]

theorem exec_of_fault {r : Fault} (h : s.fault = some r) (i : Instr) : exec i s = .fault r := by
  obtain ⟨v, hv⟩ := exec_ends i s
  cases r
  rw [hv.exec_eq, closing_of_live_none (hv.stuck (live_of_fault h))]

/-! ### The fields of the frame -/

variable (s)

theorem frameAfter_r : (frameAfter i s).r
    = if i = .ldRA then s.cpu.a else refreshed (opcodeFetches (cycles i s)) s.cpu.r := by
  cases i with
  | ldRA => exact (if_pos rfl).symm
  | _ => exact (if_neg nofun).symm

theorem frameAfter_afAlt (h : i ≠ .exAfAf) :
    (frameAfter i s).aAlt = s.cpu.aAlt ∧ (frameAfter i s).fAlt = s.cpu.fAlt := by
  cases i with
  | exAfAf => exact absurd rfl h
  | _ => exact ⟨rfl, rfl⟩

theorem frameAfter_pairsAlt (h : i ≠ .exx) :
    (frameAfter i s).bAlt = s.cpu.bAlt ∧ (frameAfter i s).cAlt = s.cpu.cAlt ∧ (frameAfter i s).dAlt = s.cpu.dAlt ∧
      (frameAfter i s).eAlt = s.cpu.eAlt ∧ (frameAfter i s).hAlt = s.cpu.hAlt ∧
      (frameAfter i s).lAlt = s.cpu.lAlt := by
  cases i with
  | exx => exact absurd rfl h
  | _ => exact ⟨rfl, rfl, rfl, rfl, rfl, rfl⟩

theorem frameAfter_i (h : i ≠ .ldIA) : (frameAfter i s).i = s.cpu.i := by
  cases i with
  | ldIA => exact absurd rfl h
  | _ => rfl

theorem frameAfter_im (h : ∀ y, i ≠ .im0 y ∧ i ≠ .im1 y ∧ i ≠ .im2 y) : (frameAfter i s).im = s.cpu.im := by
  cases i with
  | im0 y => exact absurd rfl (h y).1
  | im1 y => exact absurd rfl (h y).2.1
  | im2 y => exact absurd rfl (h y).2.2
  | _ => rfl

theorem frameAfter_iff2 (hdi : i ≠ .di) (hei : i ≠ .ei) : (frameAfter i s).iff2 = s.cpu.iff2 := by
  cases i with
  | di => exact absurd rfl hdi
  | ei => exact absurd rfl hei
  | _ => rfl

theorem frameAfter_iff1 (hdi : i ≠ .di) (hei : i ≠ .ei) (hreti : i ≠ .reti) (hretn : ∀ y, i ≠ .retn y) :
    (frameAfter i s).iff1 = s.cpu.iff1 := by
  cases i with
  | di => exact absurd rfl hdi
  | ei => exact absurd rfl hei
  | reti => exact absurd rfl hreti
  | retn y => exact absurd rfl (hretn y)
  | _ => rfl

theorem frameAfter_halt : (frameAfter i s).halt = (s.cpu.halt || decide (i = .halt)) := by
  by_cases h : i = .halt
  · subst h
    simp [frameAfter]
  · rw [decide_eq_false h, Bool.or_false]
    cases i with
    | halt => exact absurd rfl h
    | _ => rfl

end Sys2Proof.Machine

open Sys2Proof Sys2Proof.Machine

/-- Settles O12: each M1 refreshes R once, and only `LD R,A` writes it (`frameAfter_r`). -/
theorem refreshRegisterCountsOpcodeFetches : Obligations.RefreshRegisterCountsOpcodeFetches := by
  unfold Obligations.RefreshRegisterCountsOpcodeFetches
  intro i s u h
  obtain ⟨v, hv⟩ := exec_ends i s
  exact ⟨hv.fetches, (congrArg Frame.r (frame_of_exec_next h)).trans (frameAfter_r s)⟩

/-- Settles O14: the shadow registers stand in the frame, which only the two exchanges write there. -/
theorem shadowRegistersChangeOnlyByExchange : Obligations.ShadowRegistersChangeOnlyByExchange := by
  unfold Obligations.ShadowRegistersChangeOnlyByExchange
  intro i s u h
  have hx := frame_of_exec_next h
  refine ⟨fun hi => ?_, fun hi => ?_⟩
  · have hf := frameAfter_afAlt s hi
    rw [← hx] at hf
    exact hf
  · have hf := frameAfter_pairsAlt s hi
    rw [← hx] at hf
    exact hf

/-- Settles O15: the control registers stand in the frame, which only their instructions write there. -/
theorem controlRegistersChangeOnlyByTheirInstructions : Obligations.ControlRegistersChangeOnlyByTheirInstructions := by
  unfold Obligations.ControlRegistersChangeOnlyByTheirInstructions
  intro i s u h
  have hx := frame_of_exec_next h
  refine ⟨fun hi => ?_, fun him => ?_, fun hdi hei => ?_, fun hdi hei hreti hretn => ?_, ?_⟩
  · exact (congrArg Frame.i hx).trans (frameAfter_i s hi)
  · exact (congrArg Frame.im hx).trans (frameAfter_im s him)
  · exact (congrArg Frame.iff2 hx).trans (frameAfter_iff2 s hdi hei)
  · exact (congrArg Frame.iff1 hx).trans (frameAfter_iff1 s hdi hei hreti hretn)
  · exact (congrArg Frame.halt hx).trans (frameAfter_halt s)

/-- Settles O16: `endShadow` is the end of EI and of a lone prefix alone. -/
theorem eiShadowIsSetByEiAndLonePrefixOnly : Obligations.EiShadowIsSetByEiAndLonePrefixOnly := by
  unfold Obligations.EiShadowIsSetByEiAndLonePrefixOnly
  intro i s u h
  rw [eiShadow_of_exec_next h, setsShadow_iff]

/-- Settles O17: Q is set by the end of the step, and an end with Q 0 stands behind primitives that keep F. -/
theorem qHoldsTheFlagsOnlyAfterAFlagWritingInstruction :
    Obligations.QHoldsTheFlagsOnlyAfterAFlagWritingInstruction := by
  unfold Obligations.QHoldsTheFlagsOnlyAfterAFlagWritingInstruction
  exact fun i s u h => ⟨q_of_exec_next h, fun hw hpop hex => f_of_exec_next h hw (replacesF_eq_false hpop hex)⟩

/-- Settles O59: no primitive clears a fault (`exec_of_fault`), and every other entry asks for it first. -/
theorem faultedStateAcceptsNothing : Obligations.FaultedStateAcceptsNothing := by
  unfold Obligations.FaultedStateAcceptsNothing
  intro s r h
  have hno : interruptAccepted s = false := by simp [interruptAccepted, h]
  refine ⟨?_, ?_, ?_, fun call => ?_, exec_of_fault h⟩
  · simp [step, h]
  · simp [nmi, h]
  · simp [interrupt, hno, outcome_eq_fault.mpr h]
  · simp [hostStep, h]

end

section
/-! PROOFS. More rules of `Reaches`: ports, the stack, reads that are written back, branches, the block instructions and
the (XY+d) forms. A schedule that an operation appends is written as `cycles` writes it. -/

namespace Sys2Proof.Machine

/-- PC stands one past the last byte fetched. -/
theorem Cpu.pc_fetched_succ (c : Cpu) (k n : Nat) :
    (c.fetched k (n + 1)).pc = c.pc + BitVec.ofNat 16 n + 1 := by
  simp [Cpu.fetched, BitVec.ofNat_add, BitVec.add_assoc]

namespace Reaches

variable {s u v w : State} {acts : List Act} {c d : Cpu}

/-! ### Ports -/

theorem ior (h : Reaches s acts c u) (port : Cpu → Word) :
    Reaches s (acts ++ [.ior (port c)]) c (Machine.ior (port u.cpu) u) := by
  obtain rfl := h.cpu
  refine h.act ?_ (ior_cpu _ u) (ior_mem _ u) (ior_roFlips _ u)
  rw [ior_live]
  cases hl : u.live with
  | none => rfl
  | some b =>
    obtain ⟨-, ht, htr⟩ := State.live_eq_some hl
    simp [Act.play, portIn, ht, htr]

theorem iow (h : Reaches s acts c u) (port : Cpu → Word) (val : Cpu → Byte) :
    Reaches s (acts ++ [.iow (port c) (val c)]) c (Machine.iow (port u.cpu) (val u.cpu) u) :=
  h.act (by rw [iow_live, h.cpu]; rfl) (by rw [iow_cpu, h.cpu]) (iow_mem _ _ u) (iow_roFlips _ _ u)

/-! ### The stack -/

theorem pushByte (h : Reaches s acts c u) (x : Byte) :
    Reaches s (acts ++ [.mw (c.sp - 1) x]) { c with sp := c.sp - 1 } (Machine.pushByte x u) := by
  obtain rfl := h.cpu
  exact (h.upd fun k => { k with sp := k.sp - 1 }).mw (fun _ => u.cpu.sp - 1) fun _ => x

theorem push (h : Reaches s acts c u) (val : Cpu → Word) :
    Reaches s (acts ++ pushActs c (val c)) { c with sp := c.sp - 2 } (Machine.push (val u.cpu) u) := by
  obtain rfl := h.cpu
  have hsp : u.cpu.sp - 1 - 1 = u.cpu.sp - 2 := by bv_omega
  have h2 := (h.pushByte (hiByte (val u.cpu))).pushByte (loByte (val u.cpu))
  rw [List.append_assoc, hsp] at h2
  exact h2

theorem popByte (h : Reaches s acts c u) (hs : stores acts = [] := by rfl) :
    Reaches s (acts ++ [.mr c.sp]) { c with sp := c.sp + 1 } (Machine.popByte u) :=
  (h.mr Cpu.sp hs).upd fun k => { k with sp := k.sp + 1 }

theorem pop (h : Reaches s acts c u) (hs : stores acts = [] := by rfl) :
    Reaches s (acts ++ popActs c) { c with sp := c.sp + 1 + 1 } (Machine.pop u) := by
  have h2 := (h.popByte hs).popByte (by rw [stores_append, hs]; rfl)
  rw [List.append_assoc] at h2
  exact h2

/-- The effect of RET: a pop into PC and MEMPTR. -/
theorem returnFromCall (h : Reaches s acts c u) (hs : stores acts = [] := by rfl) :
    Reaches s (acts ++ popActs c)
      { c with sp := c.sp + 1 + 1, pc := s.wordAt c.sp, memptr := s.wordAt c.sp } (Machine.returnFromCall u) := by
  obtain rfl := h.cpu
  rw [← h.wordAt_eq hs]
  exact (h.pop hs).upd fun k => { k with pc := u.wordAt u.cpu.sp, memptr := u.wordAt u.cpu.sp }

/-- The exchange of HL, IX or IY with the word on top of the stack. -/
theorem swapTop (h : Reaches s acts c u) (val : Cpu → Word) (hs : stores acts = [] := by rfl) :
    Reaches s (acts ++ swapActs c (val c)) c (Machine.swapTop (val u.cpu) u) := by
  obtain rfl := h.cpu
  have h2 := (h.mr (fun _ => u.cpu.sp) hs).mr (fun _ => u.cpu.sp + 1) (by rw [stores_append, hs]; rfl)
  have h3 := ((h2.ic (fun _ => u.cpu.sp + 1) 1).mw (fun _ => u.cpu.sp + 1) fun _ => hiByte (val u.cpu)).mw
    (fun _ => u.cpu.sp) fun _ => loByte (val u.cpu)
  have h4 := h3.ic (fun _ => u.cpu.sp) 2
  simp only [List.append_assoc] at h4
  exact h4

/-! ### Internal cycles at the last byte fetched -/

/-- Internal cycles at the byte before PC. -/
theorem icBack {a : Word} (h : Reaches s acts c u) (n : Nat) (hpc : c.pc = a + 1) :
    Reaches s (acts ++ [.ic a n]) c (Machine.ic (u.cpu.pc - 1) n u) := by
  have ha : c.pc - 1 = a := by rw [hpc]; bv_omega
  have h2 := h.ic (fun k => k.pc - 1) n
  rw [ha] at h2
  exact h2

theorem jumpRelative {a : Word} (h : Reaches s acts c u) (e : Byte) (hpc : c.pc = a + 1) :
    Reaches s (acts ++ [.ic a 5]) { c with pc := c.pc + sext8 e, memptr := c.pc + sext8 e }
      (Machine.jumpRelative e u) := by
  obtain rfl := h.cpu
  exact (h.icBack 5 hpc).upd fun k => { k with pc := u.cpu.pc + sext8 e, memptr := u.cpu.pc + sext8 e }

theorem callTo {a : Word} (h : Reaches s acts c u) (nn : Word) (hpc : c.pc = a + 1) :
    Reaches s (acts ++ ([.ic a 1] ++ pushActs c c.pc)) { c with sp := c.sp - 2, pc := nn, memptr := nn }
      (Machine.callTo nn u) := by
  obtain rfl := h.cpu
  have h2 := ((h.icBack 1 hpc).push fun _ => u.cpu.pc).upd fun k => { k with pc := nn, memptr := nn }
  rw [List.append_assoc] at h2
  exact h2

theorem fetchXyD (s : State) : Reaches s (fetchDActs s.cpu.pc) (s.cpu.fetched 2 3) (Machine.fetchXyD s) :=
  (start s).m1.mrPc.icBack 5 (s.cpu.pc_fetched_succ 2 2)

theorem fetchXyCb (s : State) : Reaches s (fetchCbActs s.cpu.pc) (s.cpu.fetched 2 4) (Machine.fetchXyCb s) :=
  (start s).m1.mrPc.mrPc.icBack 2 (s.cpu.pc_fetched_succ 2 3)

/-! ### Read, modify, write -/

/-- A byte read at `addr`, and internal cycles there. -/
theorem mrIc (h : Reaches s acts c u) (addr : Cpu → Word) (n : Nat) (hs : stores acts = [] := by rfl) :
    Reaches s (acts ++ [.mr (addr c), .ic (addr c) n]) c
      (Machine.ic (addr u.cpu) n (Machine.mr (addr u.cpu) u)) := by
  obtain rfl := h.cpu
  have h2 := (h.mr (fun _ => addr u.cpu) hs).ic (fun _ => addr u.cpu) n
  rw [List.append_assoc] at h2
  exact h2

/-- A byte read at `addr` and, internal cycles later, changed and written back. -/
theorem mrIcMw (h : Reaches s acts c u) (addr : Cpu → Word) (n : Nat) (res : Cpu → Byte → Byte)
    (hs : stores acts = [] := by rfl) :
    Reaches s (acts ++ [.mr (addr c), .ic (addr c) n, .mw (addr c) (res c (s.byteAt (addr c)))]) c
      (Machine.mw (addr u.cpu) (res u.cpu (u.byteAt (addr u.cpu)))
        (Machine.ic (addr u.cpu) n (Machine.mr (addr u.cpu) u))) := by
  obtain rfl := h.cpu
  rw [h.byteAt_eq hs]
  have h2 := (h.mrIc addr n hs).mw (fun _ => addr u.cpu) fun _ => res u.cpu (s.byteAt (addr u.cpu))
  rw [List.append_assoc] at h2
  exact h2

theorem modifyByte (h : Reaches s acts c u) (addr : Cpu → Word) (res : Cpu → Byte → Byte)
    (hs : stores acts = [] := by rfl) :
    Reaches s (acts ++ modifyActs (addr c) (res c (s.byteAt (addr c)))) c
      (Machine.modifyByte (addr u.cpu) (res u.cpu (u.byteAt (addr u.cpu))) u) := h.mrIcMw addr 1 res hs

/-! ### Branches -/

/-- Two branches, of which the one taken where `b` is true issues `xs` on top. -/
theorem taken {p : Prop} [Decidable p] {b : Bool} {xs : List Act} (hno : Reaches s acts d w)
    (hyes : Reaches s (acts ++ xs) c v) (hp : p ↔ b = true) :
    Reaches s (acts ++ takenActs b xs) (if p then c else d) (if p then v else w) := by
  cases b with
  | true => rw [if_pos (hp.mpr rfl), if_pos (hp.mpr rfl)]; exact hyes
  | false =>
    have hn : ¬p := fun h => nomatch hp.mp h
    rw [if_neg hn, if_neg hn, takenActs, if_neg Bool.false_ne_true, List.append_nil]
    exact hno

/-- A looping iteration: five cycles at `a` on top where `b` is true. -/
theorem looping {p : Prop} [Decidable p] {b : Bool} (h : Reaches s acts c u) (pc : Word) {a a' : Word}
    (ha : a = a') (hp : p ↔ b = true) :
    Reaches s (acts ++ loopActs b a') (if p then { c with pc := pc, memptr := pc + 1 } else c)
      (if p then repeatAt pc a u else u) := by
  subst ha
  exact h.taken ((h.ic (fun _ => a) 5).upd fun k => { k with pc := pc, memptr := pc + 1 }) hp

/-! ### Block instructions (rules R392 to R406) -/

theorem ldBlock (h : Reaches s acts c u) (delta : Word) (hs : stores acts = [] := by rfl) :
    Reaches s (acts ++ [.mr c.hl, .mw c.de (s.byteAt c.hl), .ic c.de 2])
      { ((c.setHl (c.hl + delta)).setDe (c.de + delta)).setBc (c.bc - 1) with
        f := ldBlockFlags c.a (s.byteAt c.hl) (c.bc - 1) c.f }
      (Machine.ldBlock delta u) := by
  obtain rfl := h.cpu
  rw [← h.byteAt_eq hs]
  have h2 := ((h.mr (fun _ => u.cpu.hl) hs).mw (fun _ => u.cpu.de) fun _ => u.byteAt u.cpu.hl).ic
    (fun _ => u.cpu.de) 2
  simp only [List.append_assoc] at h2
  exact h2.upd fun k =>
    { ((k.setHl (u.cpu.hl + delta)).setDe (u.cpu.de + delta)).setBc (u.cpu.bc - 1) with
      f := ldBlockFlags k.a (u.byteAt u.cpu.hl) (u.cpu.bc - 1) k.f }

theorem cpBlock (h : Reaches s acts c u) (delta : Word) (hs : stores acts = [] := by rfl) :
    Reaches s (acts ++ [.mr c.hl, .ic c.hl 5])
      { (c.setHl (c.hl + delta)).setBc (c.bc - 1) with
        f := cpBlockFlags c.a (s.byteAt c.hl) (c.bc - 1) c.f, memptr := c.memptr + delta }
      (Machine.cpBlock delta u) := by
  obtain rfl := h.cpu
  rw [← h.byteAt_eq hs]
  exact (h.mrIc Cpu.hl 5 hs).upd fun k =>
    { (k.setHl (u.cpu.hl + delta)).setBc (u.cpu.bc - 1) with
      f := cpBlockFlags k.a (u.byteAt u.cpu.hl) (u.cpu.bc - 1) k.f, memptr := k.memptr + delta }

/-- Behind the internal cycle, with the byte `x` the port then returns. -/
theorem inBlock (h : Reaches s acts c (Machine.icIR 1 u)) (delta : Word) {x : Byte}
    (hx : portIn c.bc (Machine.icIR 1 u) = x) :
    Reaches s (acts ++ [.ior c.bc, .mw c.hl x])
      { c.setHl (c.hl + delta) with
        b := c.b - 1, f := bioFlags x (x.toNat + (c.c + loByte delta).toNat) (c.b - 1), memptr := c.bc + delta }
      (Machine.inBlock delta u) := by
  obtain rfl := h.cpu
  subst hx
  generalize hv : Machine.icIR 1 u = v at h
  have h2 := (h.ior fun _ => v.cpu.bc).mw (fun _ => v.cpu.hl) fun _ => portIn v.cpu.bc v
  rw [List.append_assoc] at h2
  rw [Machine.inBlock, hv]
  exact h2.upd fun k =>
    { k.setHl (v.cpu.hl + delta) with
      b := v.cpu.b - 1, memptr := v.cpu.bc + delta
      f := bioFlags (portIn v.cpu.bc v) ((portIn v.cpu.bc v).toNat + (v.cpu.c + loByte delta).toNat) (v.cpu.b - 1) }

/-- Behind the internal cycle. -/
theorem outBlock (h : Reaches s acts c (Machine.icIR 1 u)) (delta : Word) (hs : stores acts = [] := by rfl) :
    Reaches s (acts ++ [.mr c.hl, .iow (join (c.b - 1) c.c) (s.byteAt c.hl)])
      { c.setHl (c.hl + delta) with
        b := c.b - 1, memptr := join (c.b - 1) c.c + delta
        f := bioFlags (s.byteAt c.hl) ((s.byteAt c.hl).toNat + (loByte (c.hl + delta)).toNat) (c.b - 1) }
      (Machine.outBlock delta u) := by
  obtain rfl := h.cpu
  rw [← h.byteAt_eq hs]
  generalize hv : Machine.icIR 1 u = v at h
  have h2 := (h.mr (fun _ => v.cpu.hl) hs).iow (fun _ => join (v.cpu.b - 1) v.cpu.c) fun _ => v.byteAt v.cpu.hl
  rw [List.append_assoc] at h2
  rw [Machine.outBlock, hv]
  exact h2.upd fun k =>
    { k.setHl (v.cpu.hl + delta) with
      b := v.cpu.b - 1, memptr := join (v.cpu.b - 1) v.cpu.c + delta
      f := bioFlags (v.byteAt v.cpu.hl) ((v.byteAt v.cpu.hl).toNat + (loByte (v.cpu.hl + delta)).toNat)
        (v.cpu.b - 1) }

/-! ### The (XY+d) forms (rule R452) -/

variable {k n : Nat}

theorem indexAddr_eq (h : Reaches s acts (s.cpu.fetched k n) u) (x : XY) (d : Byte) :
    u.cpu.indexAddr x d = s.cpu.indexAddr x d := by
  rw [Cpu.indexAddr, h.cpu, Cpu.getXy_of_fetched]; rfl

theorem readXy (h : Reaches s acts (s.cpu.fetched k n) u) (x : XY) (d : Byte) (hs : stores acts = [] := by rfl) :
    Reaches s (acts ++ [.mr (s.cpu.indexAddr x d)])
      { s.cpu.fetched k n with memptr := s.cpu.indexAddr x d }
      (Machine.mr (u.cpu.indexAddr x d) (setMemptr (u.cpu.indexAddr x d) u)) := by
  rw [h.indexAddr_eq]
  exact (h.upd fun r => { r with memptr := s.cpu.indexAddr x d }).mr (fun _ => s.cpu.indexAddr x d) hs

theorem readXyIc (h : Reaches s acts (s.cpu.fetched k n) u) (x : XY) (d : Byte) (m : Nat)
    (hs : stores acts = [] := by rfl) :
    Reaches s (acts ++ [.mr (s.cpu.indexAddr x d), .ic (s.cpu.indexAddr x d) m])
      { s.cpu.fetched k n with memptr := s.cpu.indexAddr x d }
      (Machine.ic (u.cpu.indexAddr x d) m (Machine.mr (u.cpu.indexAddr x d) (setMemptr (u.cpu.indexAddr x d) u))) := by
  rw [h.indexAddr_eq]
  exact (h.upd fun r => { r with memptr := s.cpu.indexAddr x d }).mrIc (fun _ => s.cpu.indexAddr x d) m hs

theorem storeXy (h : Reaches s acts (s.cpu.fetched k n) u) (x : XY) (d : Byte) (val : Cpu → Byte) :
    Reaches s (acts ++ [.mw (s.cpu.indexAddr x d) (val (s.cpu.fetched k n))])
      { s.cpu.fetched k n with memptr := s.cpu.indexAddr x d }
      (Machine.mw (u.cpu.indexAddr x d) (val u.cpu) (setMemptr (u.cpu.indexAddr x d) u)) := by
  rw [h.indexAddr_eq, h.cpu]
  exact (h.upd fun r => { r with memptr := s.cpu.indexAddr x d }).mw (fun _ => s.cpu.indexAddr x d)
    fun _ => val (s.cpu.fetched k n)

theorem modifyXy (h : Reaches s acts (s.cpu.fetched k n) u) (x : XY) (d : Byte) (res : Cpu → Byte → Byte)
    (hs : stores acts = [] := by rfl) :
    Reaches s (acts ++ modifyActs (s.cpu.indexAddr x d) (res (s.cpu.fetched k n) (s.byteAt (s.cpu.indexAddr x d))))
      { s.cpu.fetched k n with memptr := s.cpu.indexAddr x d }
      (Machine.modifyByte (u.cpu.indexAddr x d) (res u.cpu (u.byteAt (u.cpu.indexAddr x d)))
        (setMemptr (u.cpu.indexAddr x d) u)) := by
  rw [h.indexAddr_eq, h.cpu]
  exact (h.upd fun r => { r with memptr := s.cpu.indexAddr x d }).modifyByte (fun _ => s.cpu.indexAddr x d)
    (fun _ => res (s.cpu.fetched k n)) hs

end Reaches

end Sys2Proof.Machine
end

section
/-! PROOFS. Every instruction runs as its Cycles line, whatever the registers behind it: each arm lists its meaning's
primitives in order. -/

namespace Sys2Proof.Machine

namespace Reaches

variable {s u v : State} {acts : List Act} {c : Cpu}

/-! ### The end of the step, for any registers -/

variable {i : Instr}

theorem runs_endPlain (h : Reaches s (cycles i s) c u) (hx : exec i s = endPlain u) : ∃ c, RunsAs i s c :=
  ⟨_, h.runsAs_endPlain hx⟩

theorem runs_endFlags (h : Reaches s (cycles i s) c u) (hx : exec i s = endFlags u) : ∃ c, RunsAs i s c :=
  ⟨_, runsAs_endFlags (c := c) (f := c.f) h hx⟩

theorem runs_endShadow (h : Reaches s (cycles i s) c u) (hx : exec i s = endShadow u) : ∃ c, RunsAs i s c :=
  ⟨_, runsAs_of (u.upd fun r => { r with q := 0, eiShadow := true }) hx
    (fun hf => by rw [upd_live, h.live, State.live_of_none hf]; rfl) (fun _ _ _ => ⟨rfl, h.mem⟩) h.roFlips⟩

/-- Behind a schedule that is played through, a port returns the byte the schedule says. -/
theorem portIn_eq {b : Bus} (h : Reaches s acts c u) (hf : s.fault = none) (hb : s.plays acts = some b) (p : Word) :
    portIn p u = s.portByte acts p := by
  have hl : u.live = some b := by rw [h.live, State.live_of_none hf]; exact hb
  obtain ⟨-, ht, htr⟩ := State.live_eq_some hl
  simp [portIn, State.portByte, hb, ht, htr]

/-- An instruction whose schedule holds a byte read from a port, `tail` behind `acts`: where `acts` is played through
the byte is the one the machine reads, and otherwise both meet the overrun. -/
theorem runs_endFlags_of_portByte {p : Word} {tail : Byte → List Act} {d : Cpu} (hpre : Reaches s acts d v)
    (h : Reaches s (acts ++ tail (portIn p v)) c u) (hx : exec i s = endFlags u)
    (hcyc : cycles i s = acts ++ tail (s.portByte acts p)) : ∃ c, RunsAs i s c := by
  refine ⟨c.flagged c.f, fun hf => ?_⟩
  cases hb : s.plays acts with
  | some b =>
    rw [hpre.portIn_eq hf hb, ← hcyc] at h
    exact runsAs_endFlags (c := c) (f := c.f) h hx hf
  | none =>
    have hnone : ∀ rest, s.plays (acts ++ rest) = none := fun rest => by
      rw [State.plays, play_append]
      exact congrArg (Option.bind · _) hb
    have hlive : u.live = none := by rw [h.live, State.live_of_none hf]; exact hnone _
    rw [hcyc, hnone]
    exact ⟨nofun, fun _ => hx.trans (outcome_of_live_none hlive)⟩

end Reaches

open Reaches

variable {i : Instr} {s : State}

/-! ### Forms shared by several instructions -/

theorem exists_runsAs_rotOnMhl (rot : Bool → Byte → Byte × Bool) (hx : exec i s = rotOnMhl rot s)
    (hcyc : cycles i s = [.m1 s.cpu.pc, .m1 (s.cpu.pc + 1)]
      ++ modifyActs s.cpu.hl (rot (flagC s.cpu.f) (s.byteAt s.cpu.hl)).1) : ∃ c, RunsAs i s c := by
  have h := (start s).m1.modifyByte Cpu.hl fun c v => (rot (flagC c.f) v).1
  exact (hcyc ▸ h.upd _ : Reaches s (cycles i s) _ _).runs_endFlags hx

theorem exists_runsAs_rotOnMxy (rot : Bool → Byte → Byte × Bool) {x : XY} {d : Byte} {cp : Option Reg8}
    (hx : exec i s = rotOnMxy rot x d cp s)
    (hcyc : cycles i s = fetchCbActs s.cpu.pc
      ++ modifyActs (s.cpu.indexAddr x d) (rot (flagC s.cpu.f) (s.byteAt (s.cpu.indexAddr x d))).1) :
    ∃ c, RunsAs i s c := by
  have h := (Reaches.fetchXyCb s).modifyXy x d fun c v => (rot (flagC c.f) v).1
  exact (hcyc ▸ (h.upd _).upd _ : Reaches s (cycles i s) _ _).runs_endFlags hx

theorem exists_runsAs_ldBlockRepeat {delta : Word} (hx : exec i s = ldBlockRepeat delta s)
    (hcyc : cycles i s = [.m1 s.cpu.pc, .m1 (s.cpu.pc + 1)]
      ++ [.mr s.cpu.hl, .mw s.cpu.de (s.byteAt s.cpu.hl), .ic s.cpu.de 2]
      ++ loopActs (s.cpu.bc - 1 != 0) s.cpu.de) : ∃ c, RunsAs i s c := by
  have h := (start s).m1.ldBlock delta
  have hbc : (ldBlock delta (m1 (m1 s))).cpu.bc ≠ 0 ↔ (s.cpu.bc - 1 != 0) = true := by
    rw [h.cpu, bne_iff_ne]
    simp [Cpu.fetched, Cpu.bc, Cpu.setBc]
  exact (hcyc ▸ h.looping s.cpu.pc rfl hbc : Reaches s (cycles i s) _ _).runs_endFlags hx

theorem exists_runsAs_cpBlockRepeat {delta : Word} (hx : exec i s = cpBlockRepeat delta s)
    (hcyc : cycles i s = [.m1 s.cpu.pc, .m1 (s.cpu.pc + 1)] ++ [.mr s.cpu.hl, .ic s.cpu.hl 5]
      ++ loopActs (s.cpu.bc - 1 != 0 && s.cpu.a != s.byteAt s.cpu.hl) s.cpu.hl) : ∃ c, RunsAs i s c := by
  have h := (start s).m1.cpBlock delta
  have hgo : (cpBlock delta (m1 (m1 s))).cpu.bc ≠ 0 ∧ (s.cpu.a == s.byteAt s.cpu.hl) = false
      ↔ (s.cpu.bc - 1 != 0 && s.cpu.a != s.byteAt s.cpu.hl) = true := by
    rw [h.cpu]
    simp [Cpu.fetched, Cpu.bc, Cpu.setBc]
  exact (hcyc ▸ h.looping s.cpu.pc rfl hgo : Reaches s (cycles i s) _ _).runs_endFlags hx

theorem reaches_inPrelude (s : State) :
    Reaches s (inPrelude s.cpu) (s.cpu.fetched 2 2) (icIR 1 (m1 (m1 s))) := (start s).m1.icIR 1

/-- INI and IND. -/
theorem exists_runsAs_inBlock {delta : Word} (hx : exec i s = endFlags (inBlock delta (m1 (m1 s))))
    (hcyc : cycles i s = inPrelude s.cpu ++ [.ior s.cpu.bc, .mw s.cpu.hl (inBlockByte s)]) :
    ∃ c, RunsAs i s c :=
  (reaches_inPrelude s).runs_endFlags_of_portByte (tail := fun x => [.ior s.cpu.bc, .mw s.cpu.hl x])
    ((reaches_inPrelude s).inBlock delta rfl) hx hcyc

/-- INIR and INDR. -/
theorem exists_runsAs_inBlockRepeat {delta : Word} (hx : exec i s = inBlockRepeat delta s)
    (hcyc : cycles i s = inPrelude s.cpu ++ [.ior s.cpu.bc, .mw s.cpu.hl (inBlockByte s)]
      ++ loopActs (s.cpu.b - 1 != 0) s.cpu.hl) : ∃ c, RunsAs i s c := by
  have h := (reaches_inPrelude s).inBlock delta rfl
  have hb : (inBlock delta (m1 (m1 s))).cpu.b ≠ 0 ↔ (s.cpu.b - 1 != 0) = true := by
    rw [h.cpu, bne_iff_ne]; rfl
  exact (reaches_inPrelude s).runs_endFlags_of_portByte
    (tail := fun x => [.ior s.cpu.bc, .mw s.cpu.hl x] ++ loopActs (s.cpu.b - 1 != 0) s.cpu.hl)
    (h.looping s.cpu.pc rfl hb) hx hcyc

/-- OTIR and OTDR. -/
theorem exists_runsAs_outBlockRepeat {delta : Word} (hx : exec i s = outBlockRepeat delta s)
    (hcyc : cycles i s = inPrelude s.cpu ++ [.mr s.cpu.hl, .iow (join (s.cpu.b - 1) s.cpu.c) (s.byteAt s.cpu.hl)]
      ++ loopActs (s.cpu.b - 1 != 0) (join (s.cpu.b - 1) s.cpu.c)) : ∃ c, RunsAs i s c := by
  have h := (reaches_inPrelude s).outBlock delta
  have hb : (outBlock delta (m1 (m1 s))).cpu.b ≠ 0 ↔ (s.cpu.b - 1 != 0) = true := by
    rw [h.cpu, bne_iff_ne]; rfl
  have hbc : (outBlock delta (m1 (m1 s))).cpu.bc = join (s.cpu.b - 1) s.cpu.c := by rw [h.cpu]; rfl
  exact (hcyc ▸ h.looping s.cpu.pc hbc hb : Reaches s (cycles i s) _ _).runs_endFlags hx

/-! ### Every instruction -/

/-- Every instruction runs as its Cycles line. Each arm lists the primitives behind the fetch in order, with their
addresses and bytes as functions of the registers; a change of the registers, `upd _`, is read off the meaning. -/
theorem exists_runsAs (i : Instr) (s : State) : ∃ c, RunsAs i s c := by
  have one := Reaches.start s
  have two := one.m1
  have imm8 := one.mrPc
  have imm16 := imm8.mrPc
  have edImm16 := two.mrPc.mrPc
  have xyD := Reaches.fetchXyD s
  have xyCb := Reaches.fetchXyCb s
  cases i with
  -- 8-bit loads
  | ldRR r r2 => exact (one.upd _).runs_endPlain rfl
  | ldRN r n => exact (imm8.upd _).runs_endPlain rfl
  | ldRMhl r => exact ((one.mr Cpu.hl).upd _).runs_endPlain rfl
  | ldMhlR r => exact ⟨_, runsAs_ldMhlR s r⟩
  | ldMhlN n => exact ⟨_, runsAs_ldMhlN s n⟩
  | ldAMbc => exact (one.loadA Cpu.bc).runs_endPlain rfl
  | ldAMde => exact (one.loadA Cpu.de).runs_endPlain rfl
  | ldAMnn nn => exact (imm16.loadA fun _ => nn).runs_endPlain rfl
  | ldMbcA => exact (one.storeA Cpu.bc).runs_endPlain rfl
  | ldMdeA => exact (one.storeA Cpu.de).runs_endPlain rfl
  | ldMnnA nn => exact (imm16.storeA fun _ => nn).runs_endPlain rfl
  | ldAI | ldAR => exact ((two.icIR 1).upd _).runs_endFlags rfl
  | ldIA | ldRA => exact ((two.icIR 1).upd _).runs_endPlain rfl
  -- 16-bit loads, stack and exchange
  | ldRpNn rr nn => exact (imm16.upd _).runs_endPlain rfl
  | ldHlMnn nn => exact (imm16.loadWord nn fun w c => { c.setHl w with memptr := nn + 1 }).runs_endPlain rfl
  | ldMnnHl nn =>
    have h := (imm16.mw2 nn Cpu.hl).upd fun c => { c with memptr := nn + 1 }
    rw [Cpu.hl, hiByte_join, loByte_join] at h
    exact h.runs_endPlain rfl
  | ldRpMnn rr nn => exact (edImm16.loadWord nn fun w c => { c.setRp rr w with memptr := nn + 1 }).runs_endPlain rfl
  | ldMnnRp rr nn =>
    have h := (edImm16.mw2 nn (Cpu.getRp rr)).upd fun c => { c with memptr := nn + 1 }
    rw [Cpu.getRp_of_fetched] at h
    exact h.runs_endPlain rfl
  | ldSpHl => exact ((one.icIR 2).upd _).runs_endPlain rfl
  | pushQq qq => exact ((one.icIR 1).push fun _ => s.cpu.getRp2 qq).runs_endPlain rfl
  | popQq qq => exact (one.pop.upd _).runs_endPlain rfl
  | exDeHl => exact (one.upd _).runs_endPlain rfl
  | exMspHl => exact ((one.swapTop Cpu.hl).upd _).runs_endPlain rfl
  | exAfAf | exx => exact (one.upd _).runs_endPlain rfl
  -- 8-bit arithmetic and logic
  | addAR r | adcAR r | subR r | sbcAR r | andR r | xorR r | orR r | cpR r => exact (one.upd _).runs_endFlags rfl
  | addAN n | adcAN n | subN n | sbcAN n | andN n | xorN n | orN n | cpN n => exact (imm8.upd _).runs_endFlags rfl
  | addAMhl | adcAMhl | subMhl | sbcAMhl | andMhl | xorMhl | orMhl | cpMhl =>
    exact ((one.mr Cpu.hl).upd _).runs_endFlags rfl
  | incR r | decR r => exact (one.upd _).runs_endFlags rfl
  | incMhl => exact ((one.modifyByte Cpu.hl fun c v => (inc8 v c.f).1).upd _).runs_endFlags rfl
  | decMhl => exact ((one.modifyByte Cpu.hl fun c v => (dec8 v c.f).1).upd _).runs_endFlags rfl
  | daa | cpl | scf | ccf => exact (one.upd _).runs_endFlags rfl
  | neg y => exact (two.upd _).runs_endFlags rfl
  -- 16-bit arithmetic
  | addHlRp rr => exact ((one.icIR 7).upd _).runs_endFlags rfl
  | adcHlRp rr | sbcHlRp rr => exact ((two.icIR 7).upd _).runs_endFlags rfl
  | incRp rr | decRp rr => exact ((one.icIR 2).upd _).runs_endPlain rfl
  -- rotates, shifts and bit operations
  | rlca | rrca | rla | rra => exact (one.upd _).runs_endFlags rfl
  | rlcR r | rrcR r | rlR r | rrR r | slaR r | sraR r | sllR r | srlR r => exact (two.upd _).runs_endFlags rfl
  | rlcMhl => exact exists_runsAs_rotOnMhl (fun _ => rotRlc) rfl rfl
  | rrcMhl => exact exists_runsAs_rotOnMhl (fun _ => rotRrc) rfl rfl
  | rlMhl => exact exists_runsAs_rotOnMhl rotRl rfl rfl
  | rrMhl => exact exists_runsAs_rotOnMhl rotRr rfl rfl
  | slaMhl => exact exists_runsAs_rotOnMhl (fun _ => rotSla) rfl rfl
  | sraMhl => exact exists_runsAs_rotOnMhl (fun _ => rotSra) rfl rfl
  | sllMhl => exact exists_runsAs_rotOnMhl (fun _ => rotSll) rfl rfl
  | srlMhl => exact exists_runsAs_rotOnMhl (fun _ => rotSrl) rfl rfl
  | bitR b r => exact (two.upd _).runs_endFlags rfl
  | bitMhl b => exact ((two.mrIc Cpu.hl 1).upd _).runs_endFlags rfl
  | resR b r | setR b r => exact (two.upd _).runs_endPlain rfl
  | resMhl b => exact (two.modifyByte Cpu.hl fun _ => resBit b).runs_endPlain rfl
  | setMhl b => exact (two.modifyByte Cpu.hl fun _ => setBit b).runs_endPlain rfl
  | rld => exact ((two.mrIcMw Cpu.hl 4 fun c v => (rldBytes c.a v).1).upd _).runs_endFlags rfl
  | rrd => exact ((two.mrIcMw Cpu.hl 4 fun c v => (rrdBytes c.a v).1).upd _).runs_endFlags rfl
  -- jumps, calls, returns and restarts
  | jp nn => exact (imm16.upd _).runs_endPlain rfl
  | jpCc cc nn => exact (imm16.upd _).runs_endPlain rfl
  | jr e => exact (imm8.jumpRelative e (s.cpu.pc_fetched_succ 1 1)).runs_endPlain rfl
  | jrCc cc e =>
    have jump := imm8.jumpRelative e (s.cpu.pc_fetched_succ 1 1)
    exact (imm8.taken jump (by rw [imm8.cpu]; rfl)).runs_endPlain rfl
  | djnz e =>
    have dec := (one.icIR 1).mrPc.upd fun c => { c with b := c.b - 1 }
    have jump := dec.jumpRelative e (s.cpu.pc_fetched_succ 1 1)
    exact (dec.taken jump (by rw [dec.cpu, bne_iff_ne]; rfl)).runs_endPlain rfl
  | jpHl => exact (one.upd _).runs_endPlain rfl
  -- `execCall` is named so that unification stops there and does not run the push.
  | call nn =>
    exact (imm16.callTo nn (s.cpu.pc_fetched_succ 1 2)).runs_endPlain (show execCall nn s = _ from rfl)
  | callCc cc nn =>
    have call := imm16.callTo nn (s.cpu.pc_fetched_succ 1 2)
    exact ((imm16.upd _).taken call (by rw [imm16.cpu]; rfl)).runs_endPlain rfl
  | ret => exact one.returnFromCall.runs_endPlain rfl
  | retCc cc =>
    have wait := one.icIR 1
    exact (wait.taken wait.returnFromCall (by rw [wait.cpu]; rfl)).runs_endPlain rfl
  | retn y | reti => exact (two.returnFromCall.upd _).runs_endPlain rfl
  | rst y => exact (((one.icIR 1).push Cpu.pc).upd _).runs_endPlain rfl
  -- block transfer, search and I/O
  | ldi | ldd => exact (two.ldBlock _).runs_endFlags rfl
  | ldir | lddr => exact exists_runsAs_ldBlockRepeat rfl rfl
  | cpi | cpd => exact (two.cpBlock _).runs_endFlags rfl
  | cpir | cpdr => exact exists_runsAs_cpBlockRepeat rfl rfl
  | ini | ind => exact exists_runsAs_inBlock rfl rfl
  | inir | indr => exact exists_runsAs_inBlockRepeat rfl rfl
  | outi | outd => exact ((reaches_inPrelude s).outBlock _).runs_endFlags rfl
  | otir | otdr => exact exists_runsAs_outBlockRepeat rfl rfl
  -- I/O and CPU control
  | inAMn n => exact ((imm8.ior fun c => join c.a n).upd _).runs_endPlain rfl
  | inRC r | inFC => exact ((two.ior Cpu.bc).upd _).runs_endFlags rfl
  | outMnA n => exact ((imm8.iow (fun c => join c.a n) Cpu.a).upd _).runs_endPlain rfl
  | outCR r => exact ((two.iow Cpu.bc fun _ => s.cpu.getR r).upd _).runs_endPlain rfl
  | outC0 => exact ((two.iow Cpu.bc fun _ => 0x00).upd _).runs_endPlain rfl
  | nop => exact one.runs_endPlain rfl
  | halt | di => exact (one.upd _).runs_endPlain rfl
  | ei => exact (one.upd _).runs_endShadow rfl
  | im0 y | im1 y | im2 y => exact (two.upd _).runs_endPlain rfl
  | edNop o => exact two.runs_endPlain rfl
  -- index-register instructions
  | ldXyNn x nn => exact (edImm16.upd _).runs_endPlain rfl
  | ldXyMnn x nn => exact (edImm16.loadWord nn fun w c => { c.setXy x w with memptr := nn + 1 }).runs_endPlain rfl
  | ldMnnXy x nn =>
    have h := (edImm16.mw2 nn (Cpu.getXy x)).upd fun c => { c with memptr := nn + 1 }
    rw [Cpu.getXy_of_fetched] at h
    exact h.runs_endPlain rfl
  | addXyRp x rr => exact ((two.icIR 7).upd _).runs_endFlags rfl
  | incXy x | decXy x => exact ((two.icIR 2).upd _).runs_endPlain rfl
  | incHalf x k | decHalf x k => exact (two.upd _).runs_endFlags rfl
  | ldHalfN x k n => exact (two.mrPc.upd _).runs_endPlain rfl
  | incMxy x d => exact ((xyD.modifyXy x d fun c v => (inc8 v c.f).1).upd _).runs_endFlags rfl
  | decMxy x d => exact ((xyD.modifyXy x d fun c v => (dec8 v c.f).1).upd _).runs_endFlags rfl
  | ldMxyN x d n => exact (xyCb.storeXy x d fun _ => n).runs_endPlain rfl
  | ldRRHalf x r r2 => exact (two.upd _).runs_endPlain rfl
  | ldRMxy x r d => exact ((xyD.readXy x d).upd _).runs_endPlain rfl
  | ldMxyR x r d =>
    have h := xyD.storeXy x d (Cpu.getR r)
    rw [Cpu.getR_of_fetched] at h
    exact h.runs_endPlain rfl
  | pushXy x => exact ((two.icIR 1).push fun _ => s.cpu.getXy x).runs_endPlain rfl
  | popXy x => exact (two.pop.upd _).runs_endPlain rfl
  | exMspXy x =>
    have h := two.swapTop (Cpu.getXy x)
    rw [Cpu.getXy_of_fetched] at h
    exact (h.upd _).runs_endPlain rfl
  | jpXy x => exact (two.upd _).runs_endPlain rfl
  | ldSpXy x => exact ((two.icIR 2).upd _).runs_endPlain rfl
  | addAHalf x k | adcAHalf x k | subHalf x k | sbcAHalf x k | andHalf x k | xorHalf x k | orHalf x k | cpHalf x k =>
    exact (two.upd _).runs_endFlags rfl
  | addAMxy x d | adcAMxy x d | subMxy x d | sbcAMxy x d | andMxy x d | xorMxy x d | orMxy x d | cpMxy x d =>
    exact ((xyD.readXy x d).upd _).runs_endFlags rfl
  | rlcMxy x d cp => exact exists_runsAs_rotOnMxy (fun _ => rotRlc) rfl rfl
  | rrcMxy x d cp => exact exists_runsAs_rotOnMxy (fun _ => rotRrc) rfl rfl
  | rlMxy x d cp => exact exists_runsAs_rotOnMxy rotRl rfl rfl
  | rrMxy x d cp => exact exists_runsAs_rotOnMxy rotRr rfl rfl
  | slaMxy x d cp => exact exists_runsAs_rotOnMxy (fun _ => rotSla) rfl rfl
  | sraMxy x d cp => exact exists_runsAs_rotOnMxy (fun _ => rotSra) rfl rfl
  | sllMxy x d cp => exact exists_runsAs_rotOnMxy (fun _ => rotSll) rfl rfl
  | srlMxy x d cp => exact exists_runsAs_rotOnMxy (fun _ => rotSrl) rfl rfl
  | bitMxy x d b z => exact ((xyCb.readXyIc x d 1).upd _).runs_endFlags rfl
  | resMxy x d b cp => exact ((xyCb.modifyXy x d fun _ => resBit b).upd _).runs_endPlain rfl
  | setMxy x d b cp => exact ((xyCb.modifyXy x d fun _ => setBit b).upd _).runs_endPlain rfl
  | lonePrefix x q => exact one.runs_endShadow rfl

end Sys2Proof.Machine

open Sys2Proof Sys2Proof.Machine

/-- Settles O6: `exists_runsAs` runs every instruction as its Cycles line. -/
theorem everyInstructionIssuesItsCyclesLine : Obligations.EveryInstructionIssuesItsCyclesLine := by
  unfold Obligations.EveryInstructionIssuesItsCyclesLine
  intro i s hf
  obtain ⟨c, hc⟩ := exists_runsAs i s
  obtain ⟨hnext, hfault⟩ := hc hf
  exact ⟨fun b hb => ⟨c, hnext b hb⟩, hfault⟩

end

section
/-! PROOFS. Memory behind an instruction: the fold of its stores, which keeps the canonical form and is read byte by
byte. -/

namespace Sys2Proof.Machine

variable {i : Instr} {s u : State}

/-- A completed instruction leaves what its Cycles line leaves. -/
theorem behind_of_exec_next (h : exec i s = .next u) :
    ∃ c b, s.plays (cycles i s) = some b ∧ u = s.behind (cycles i s) c b := by
  cases hf : s.fault with
  | some r => exact nomatch h.symm.trans (exec_of_fault hf i)
  | none =>
    obtain ⟨c, hc⟩ := exists_runsAs i s
    obtain ⟨hnext, hfault⟩ := hc hf
    cases hb : s.plays (cycles i s) with
    | none => exact nomatch h.symm.trans (hfault hb)
    | some b => exact ⟨c, b, rfl, Host.Outcome.next.inj (h.symm.trans (hnext b hb))⟩

theorem mem_of_exec_next (h : exec i s = .next u) : u.mem = s.memAfter (cycles i s) := by
  obtain ⟨c, b, -, rfl⟩ := behind_of_exec_next h
  rfl

theorem roFlips_of_exec_next (h : exec i s = .next u) : u.roFlips = s.roFlips := by
  obtain ⟨c, b, -, rfl⟩ := behind_of_exec_next h
  rfl

theorem exec_of_step_next (h : step s = .next u) : exec (fetchInstr s) s = .next u := by
  unfold step at h
  split at h
  · cases h
  · exact h

/-! ### A list of stores -/

theorem State.storeIn_wf (s : State) {m : Memory} (h : m.wf) (w : Word × Byte) : (s.storeIn m w).wf := by
  unfold State.storeIn
  split
  · exact h
  · exact Memory.write_wf h w.1.isLt w.2

theorem State.foldl_storeIn_wf (s : State) {m : Memory} (h : m.wf) (ws : List (Word × Byte)) :
    (ws.foldl s.storeIn m).wf := by
  induction ws generalizing m with
  | nil => exact h
  | cons w ws ih => exact ih (s.storeIn_wf h w)

theorem State.memAfter_wf (h : s.mem.wf) (acts : List Act) : (s.memAfter acts).wf :=
  s.foldl_storeIn_wf h (stores acts)

/-- A store changes no other byte, and no read-only byte. -/
theorem State.read_storeIn_of_ne {m : Memory} {w : Word × Byte} {a : Word}
    (h : a ≠ w.1 ∨ s.isReadOnly a = true) : (s.storeIn m w).read a.toNat = m.read a.toNat := by
  unfold State.storeIn
  split
  · rfl
  · next hw =>
    have hne : a ≠ w.1 := h.elim id fun ha hEq => hw (hEq ▸ ha)
    exact Memory.read_write_of_ne (fun hEq => hne (BitVec.eq_of_toNat_eq hEq)) m w.2

/-- A writable byte reads back as stored. -/
theorem State.read_storeIn_self {m : Memory} (hm : m.wf) {a : Word} (ha : s.isReadOnly a = false) (v : Byte) :
    (s.storeIn m (a, v)).read a.toNat = v := by
  rw [State.storeIn, if_neg (by simp [ha])]
  exact Memory.read_write_self hm _ v

theorem State.read_foldl_storeIn_of_ne {ws : List (Word × Byte)} {m : Memory} {a : Word}
    (h : ∀ w ∈ ws, a ≠ w.1 ∨ s.isReadOnly a = true) : (ws.foldl s.storeIn m).read a.toNat = m.read a.toNat := by
  induction ws generalizing m with
  | nil => rfl
  | cons w ws ih =>
    rw [List.foldl_cons, ih fun x hx => h x (List.mem_cons_of_mem w hx),
      State.read_storeIn_of_ne (h w List.mem_cons_self)]

/-- Behind a list of stores a writable byte reads as the last one stored there. -/
theorem State.read_foldl_storeIn {m : Memory} (hm : m.wf) (ws : List (Word × Byte)) {a : Word}
    (ha : s.isReadOnly a = false) :
    (ws.foldl s.storeIn m).read a.toNat = (ws.reverse.lookup a).getD (m.read a.toNat) := by
  induction ws using List.reverseRecOn with
  | nil => rfl
  | append_singleton ws w ih =>
    obtain ⟨k, v⟩ := w
    rw [List.foldl_append, List.reverse_append]
    show (s.storeIn _ (k, v)).read a.toNat = (((k, v) :: ws.reverse).lookup a).getD _
    by_cases hk : a = k
    · subst hk
      rw [State.read_storeIn_self (s.foldl_storeIn_wf hm ws) ha, List.lookup_cons_self]
      rfl
    · rw [State.read_storeIn_of_ne (.inl hk), ih, List.lookup_cons, beq_false_of_ne hk]

theorem mw_byteAt (hm : s.mem.wf) (a x : Word) (v : Byte) :
    (mw a v s).byteAt x = if x = a ∧ s.isReadOnly a = false then v else s.byteAt x := by
  rw [State.byteAt, mw_mem]
  show (s.storeIn s.mem (a, v)).read x.toNat = _
  split
  · next h => rw [h.1]; exact State.read_storeIn_self hm h.2 v
  · next h =>
    refine State.read_storeIn_of_ne ?_
    by_cases hx : x = a
    · subst hx; exact .inr (by simpa using h)
    · exact .inl hx

end Sys2Proof.Machine

open Sys2Proof Sys2Proof.Machine

/-- Settles O8: a step changes memory by stores of one byte, each of which keeps the canonical form, and leaves the
read-only map. -/
theorem everyStepKeepsTheInvariant : Obligations.EveryStepKeepsTheInvariant := by
  unfold Obligations.EveryStepKeepsTheInvariant
  rintro s u ⟨hmem, hro⟩ h
  have hx := exec_of_step_next h
  refine ⟨?_, ?_⟩
  · rw [mem_of_exec_next hx]
    exact State.memAfter_wf hmem _
  · rw [roFlips_of_exec_next hx]
    exact hro

/-- Settles O13: memory behind an instruction is the fold of its stores, read byte by byte. -/
theorem memoryChangesOnlyWhereTheInstructionStores : Obligations.MemoryChangesOnlyWhereTheInstructionStores := by
  unfold Obligations.MemoryChangesOnlyWhereTheInstructionStores
  intro i s u h
  have hmem := mem_of_exec_next h
  simp only [State.byteAt, hmem, State.memAfter]
  refine ⟨fun a ha => ?_, fun a ha => ?_, fun hm a ha => ?_, roFlips_of_exec_next h⟩
  · exact State.read_foldl_storeIn_of_ne fun w hw => .inl fun hEq => ha (hEq ▸ List.mem_map_of_mem hw)
  · exact State.read_foldl_storeIn_of_ne fun _ _ => .inr ha
  · exact State.read_foldl_storeIn hm _ ha

end

section
/-! PROOFS. Time: reads of the contention table, port accesses, and bounds on what a schedule takes. -/

namespace Sys2Proof.Machine

variable {s : State}

/-! ### Reads of the contention table -/

theorem Bus.tick_eq_some {table : Bool} {b : Bus} (n : Nat) (h : table = true → b.time < 70930) :
    b.tick table n = some { b with time := b.time + (if table then contentionDelay b.time else 0) + n } := by
  cases table with
  | false => rfl
  | true => simp [Bus.tick, Config.contentionTableLen, h rfl]

theorem consultTable_of_lt {n t1 : Nat} (h : s.t < 70930) (ht1 : t1 = s.t + contentionDelay s.t + n) :
    consultTable n s = { s with t := t1 } := by
  rw [ht1]
  exact if_pos h

theorem consultTable_of_le (h : 70930 ≤ s.t) (n : Nat) :
    consultTable n s = { s with fault := some .contentionOverrun } := if_neg (Nat.not_lt.mpr h)

theorem consultTable_fault_of_le (h : 70930 ≤ s.t) (n : Nat) :
    (consultTable n s).fault = some .contentionOverrun := by rw [consultTable_of_le h]

theorem le_consultTable_t (h : 70930 ≤ s.t) (n : Nat) : 70930 ≤ (consultTable n s).t := by
  rw [consultTable_of_le h]
  exact h

/-- A table read moves the counter, or stands too late and leaves it there. -/
theorem consultTable_cases {n t1 : Nat} (h : t1 = s.t + contentionDelay s.t + n) :
    consultTable n s = { s with t := t1 } ∨ 70930 ≤ (consultTable n s).t := by
  rcases Nat.lt_or_ge s.t 70930 with ht | ht
  · exact .inl (consultTable_of_lt ht h)
  · exact .inr (le_consultTable_t ht n)

/-- One iteration of `contend` moves the counter, or reads the table too late and leaves it there. -/
theorem contendOnce_cases {a : Word} {n t1 : Nat}
    (h : t1 = s.t + (if isContended a then contentionDelay s.t else 0) + n) :
    contendOnce a n s = { s with t := t1 } ∨ 70930 ≤ (contendOnce a n s).t := by
  unfold contendOnce
  split at h
  · next ha =>
    rw [if_pos ha]
    exact consultTable_cases h
  · next ha =>
    rw [if_neg ha]
    exact .inl (by rw [h]; rfl)

theorem contendOnce_of_lt {a : Word} {n t1 : Nat}
    (h : t1 = s.t + (if isContended a then contentionDelay s.t else 0) + n) (ht : isContended a = true → s.t < 70930) :
    contendOnce a n s = { s with t := t1 } := by
  unfold contendOnce
  split at h
  · next ha => rw [if_pos ha, consultTable_of_lt (ht ha) h]
  · next ha => rw [if_neg ha, h]; rfl

/-! ### A port access and a write -/

theorem ioContend_of_even {p : Word} (hp : p.getLsbD 0 = false) :
    ioContend p s = consultTable 3 (contendOnce p 1 s) := if_pos hp

theorem ioContend_of_odd_contended {p : Word} (hp : p.getLsbD 0 = true) (hc : isContended p = true) :
    ioContend p s = consultTable 1 (consultTable 1 (consultTable 1 (consultTable 1 s))) := by
  simp [ioContend, hp, hc]

theorem ioContend_of_odd {p : Word} (hp : p.getLsbD 0 = true) (hc : isContended p = false) :
    ioContend p s = passTime 4 s := by
  simp [ioContend, hp, hc]

theorem mw_live_eq (a : Word) (v : Byte) {t1 : Nat} (hf : s.fault = none) (ht : isContended a = true → s.t < 70930)
    (ht1 : t1 = s.t + (if isContended a then contentionDelay s.t else 0) + 3) :
    (mw a v s).live = some ⟨t1, s.trace ++ [⟨t1, .mw, a, v⟩]⟩ := by
  have htick := Bus.tick_eq_some (b := s.bus) 3 ht
  rw [mw_live, State.live_of_none hf, Option.bind_some, htick, ht1]
  rfl

/-! ### How long a schedule takes -/

theorem State.bus_time (s : State) : s.bus.time = s.t := rfl

theorem contentionDelay_le (t : Nat) : contentionDelay t ≤ 6 := by
  have hpat : ∀ k < 8, [6, 5, 4, 3, 2, 1, 0, 0].getD k 0 ≤ 6 := by decide
  unfold contentionDelay
  split
  · dsimp only
    split
    · exact hpat _ (Nat.mod_lt _ (by decide))
    · exact Nat.zero_le 6
  · exact Nat.zero_le 6

/-- A bound on the t-states of a primitive: each table read delays by at most 6. -/
def Act.bound : Act → Nat
  | .m1 _ => 10
  | .mr _ | .mw _ _ => 9
  | .ic _ n => 7 * n
  | .ior _ | .iow _ _ => 28

/-- A bound on the t-states of a schedule. -/
def boundOf (acts : List Act) : Nat := (acts.map Act.bound).sum

/-- `r` is a bus between `lo` and `hi` t-states after `b`. -/
def Within (lo hi : Nat) (b : Bus) (r : Option Bus) : Prop :=
  ∃ b', r = some b' ∧ b.time + lo ≤ b'.time ∧ b'.time ≤ b.time + hi

namespace Within
variable {lo hi lo2 hi2 : Nat} {b : Bus} {r : Option Bus} {f : Bus → Option Bus}

theorem bind (h : Within lo hi b r) (hf : ∀ b', b'.time ≤ b.time + hi → Within lo2 hi2 b' (f b')) :
    Within (lo + lo2) (hi + hi2) b (r.bind f) := by
  obtain ⟨b1, rfl, hlo, hhi⟩ := h
  obtain ⟨b2, hb2, hlo2, hhi2⟩ := hf b1 hhi
  exact ⟨b2, hb2, by omega, by omega⟩

theorem record (h : Within lo hi b r) (k : BusKind) (a : Word) (v : Byte) :
    Within lo hi b (r.map (Bus.record k a v)) := by
  obtain ⟨b1, rfl, hlo, hhi⟩ := h
  exact ⟨_, rfl, hlo, hhi⟩

theorem mono (h : Within lo hi b r) (hlo : lo2 ≤ lo) (hhi : hi ≤ hi2) : Within lo2 hi2 b r := by
  obtain ⟨b1, hr, h1, h2⟩ := h
  exact ⟨b1, hr, by omega, by omega⟩

theorem tick (table : Bool) (n : Nat) (h : b.time < 70930) : Within n (6 + n) b (b.tick table n) := by
  refine ⟨_, Bus.tick_eq_some n fun _ => h, ?_, ?_⟩
  · exact Nat.add_le_add_right (Nat.le_add_right _ _) n
  · have hd := contentionDelay_le b.time
    dsimp only
    split <;> omega

theorem ticks (table : Bool) (n : Nat) (h : b.time + 7 * n ≤ 70930) : Within n (7 * n) b (Bus.ticks table n b) := by
  induction n generalizing b with
  | zero => exact ⟨b, rfl, le_rfl, le_rfl⟩
  | succ n ih =>
    refine ((tick table 1 (by omega)).bind fun b' hb' => ih ?_).mono ?_ ?_ <;> omega

theorem portCycle (p : Word) (h : b.time + 28 ≤ 70930) : Within 4 28 b (b.portCycle p) := by
  unfold Bus.portCycle
  split
  · refine ((tick _ 1 (by omega)).bind fun b' hb' => tick true 3 ?_).mono ?_ ?_ <;> omega
  · exact ticks true 4 (by omega)
  · exact (tick false 4 (by omega)).mono le_rfl (by decide)

/-- One primitive. An opcode fetch takes at least 4 t-states. -/
theorem act (rd : Word → Byte) (x : Act) (h : b.time + x.bound ≤ 70930) :
    Within (4 * opcodeFetches [x]) x.bound b (x.play rd b) := by
  cases x with
  | m1 a => exact (tick _ 4 (by simp only [Act.bound] at h; omega)).record _ _ _
  | mr a => exact ((tick _ 3 (by simp only [Act.bound] at h; omega)).record _ _ _).mono (Nat.zero_le 3) le_rfl
  | mw a v => exact ((tick _ 3 (by simp only [Act.bound] at h; omega)).record _ _ _).mono (Nat.zero_le 3) le_rfl
  | ic a n => exact (ticks _ n h).mono (Nat.zero_le n) le_rfl
  | ior p => exact ((portCycle p h).record _ _ _).mono (Nat.zero_le 4) le_rfl
  | iow p v => exact ((portCycle p h).record _ _ _).mono (Nat.zero_le 4) le_rfl

theorem play (rd : Word → Byte) (acts : List Act) (h : b.time + boundOf acts ≤ 70930) :
    Within (4 * opcodeFetches acts) (boundOf acts) b (Machine.play rd acts b) := by
  induction acts generalizing b with
  | nil => exact ⟨b, rfl, le_rfl, le_rfl⟩
  | cons x rest ih =>
    have hb : boundOf (x :: rest) = x.bound + boundOf rest := rfl
    have hk : opcodeFetches (x :: rest) = opcodeFetches [x] + opcodeFetches rest := by
      simpa [opcodeFetches] using List.countP_append (l₁ := [x]) (l₂ := rest)
    rw [hb, hk, Nat.mul_add]
    exact (act rd x (by omega)).bind fun b' hb' => ih (by omega)

end Within

theorem boundOf_takenActs_le (xs acts : List Act) (b : Bool) :
    boundOf (xs ++ takenActs b acts) ≤ boundOf (xs ++ acts) := by
  cases b with
  | true => exact le_rfl
  | false => simp [boundOf, takenActs]

theorem boundOf_loopActs_le (xs : List Act) (b : Bool) (a : Word) :
    boundOf (xs ++ loopActs b a) ≤ boundOf (xs ++ [.ic a 5]) := boundOf_takenActs_le xs _ b

/-- No Cycles line takes more than 128 t-states. The largest bound is 99, that of CPIR, INIR and OTIR. -/
theorem boundOf_cycles_le (i : Instr) (s : State) : boundOf (cycles i s) ≤ 128 := by
  cases i with
  | jrCc cc e | djnz e | callCc cc nn | retCc cc =>
    exact (boundOf_takenActs_le _ _ _).trans (Nat.le_of_ble_eq_true rfl)
  | ldir | lddr | cpir | cpdr | inir | indr | otir | otdr =>
    exact (boundOf_loopActs_le _ _ _).trans (Nat.le_of_ble_eq_true rfl)
  | _ => exact Nat.le_of_ble_eq_true rfl

end Sys2Proof.Machine

open Sys2Proof Sys2Proof.Machine

/-- Settles O18: the byte by `mw_byteAt`, the counter and the trace by the law of the primitive, `mw_live`. -/
theorem writtenByteReadsBackUnlessReadOnly : Obligations.WrittenByteReadsBackUnlessReadOnly := by
  unfold Obligations.WrittenByteReadsBackUnlessReadOnly
  intro s a v t1 hm hf ht ht1
  obtain ⟨hfault, htime, htrace⟩ := State.live_eq_some (mw_live_eq a v hf ht ht1)
  exact ⟨fun x => mw_byteAt hm a x v, htime, htrace, hfault, mw_cpu a v s, mw_roFlips a v s⟩

/-- Settles O19: `k` is the place in a line, the remainder by 224 that the table's pattern is read at. -/
theorem contentionTableIsTheDisplayPattern : Obligations.ContentionTableIsTheDisplayPattern := by
  unfold Obligations.ContentionTableIsTheDisplayPattern
  refine ⟨fun line k hline hk => ?_, fun t ht => ?_, rfl, fun a => ?_⟩
  · have hmod : (14335 + 224 * line + k - 14335) % 224 = k := by omega
    rw [contentionDelay, if_pos (by omega)]
    simp only [hmod]
  · rw [contentionDelay, if_neg (by omega)]
  · simp [isContended]

/-- Settles O20: a port access is one table read after another; each moves the counter or stands too late, and behind a
late one every other is late. -/
theorem portAccessTimingHasFourCases : Obligations.PortAccessTimingHasFourCases := by
  unfold Obligations.PortAccessTimingHasFourCases
  intro p s _
  refine ⟨ioContend_of_odd, fun hp t1 ht1 => ?_, fun hp hc t1 t2 t3 ht1 ht2 ht3 => ?_⟩
  · rw [ioContend_of_even hp]
    refine ⟨fun h => ?_, fun h => ?_⟩
    · rw [contendOnce_of_lt ht1 fun _ => by omega]
      exact consultTable_of_lt (s := { s with t := t1 }) h rfl
    · rcases contendOnce_cases ht1 with h1 | late
      · rw [h1]
        exact consultTable_fault_of_le (s := { s with t := t1 }) h 3
      · exact consultTable_fault_of_le late 3
  · rw [ioContend_of_odd_contended hp hc]
    refine ⟨fun h => ?_, fun h => ?_⟩
    · have h1 := consultTable_of_lt (s := s) (by omega) ht1
      have h2 := consultTable_of_lt (s := { s with t := t1 }) (show t1 < 70930 by omega) ht2
      have h3 := consultTable_of_lt (s := { s with t := t2 }) (show t2 < 70930 by omega) ht3
      rw [h1, h2, h3]
      exact consultTable_of_lt (s := { s with t := t3 }) h rfl
    · rcases consultTable_cases ht1 with h1 | late
      · rcases consultTable_cases (s := { s with t := t1 }) ht2 with h2 | late
        · rcases consultTable_cases (s := { s with t := t2 }) ht3 with h3 | late
          · rw [h1, h2, h3]
            exact consultTable_fault_of_le (s := { s with t := t3 }) h 1
          · rw [h1, h2]
            exact consultTable_fault_of_le late 1
        · rw [h1]
          exact consultTable_fault_of_le (le_consultTable_t late 1) 1
      · exact consultTable_fault_of_le (le_consultTable_t (le_consultTable_t late 1) 1) 1

/-- Settles O7: a Cycles line of at most 128 t-states reads the table in time, and its first opcode fetch takes 4. -/
theorem everyInstructionCompletesBeforeTheTableEnds : Obligations.EveryInstructionCompletesBeforeTheTableEnds := by
  unfold Obligations.EveryInstructionCompletesBeforeTheTableEnds
  intro i s hf ht
  have hbound := boundOf_cycles_le i s
  obtain ⟨v, hv⟩ := exec_ends i s
  have hfetch : 1 ≤ opcodeFetches (cycles i s) := hv.fetches.elim (fun h => h ▸ le_rfl) fun h => h ▸ (by decide)
  have hplay : Within (4 * opcodeFetches (cycles i s)) (boundOf (cycles i s)) s.bus (s.plays (cycles i s)) :=
    Within.play s.byteAt (cycles i s) (by rw [State.bus_time]; omega)
  obtain ⟨b, hb, hlo, hhi⟩ := hplay
  obtain ⟨c, hc⟩ := exists_runsAs i s
  obtain ⟨hnext, -⟩ := hc hf
  rw [State.bus_time] at hlo hhi
  exact ⟨_, hnext b hb, rfl, show s.t + 4 ≤ b.time by omega, show b.time ≤ s.t + 128 by omega⟩

end

section
/-! PROOFS. The host's load, clear, read-only map and register writes. -/

namespace Sys2Proof.Machine

/-! ### Registers by name -/

theorem Cpu.hostRead8_hostWrite8 (c : Cpu) (x y : HostReg8) (v : Byte) :
    (c.hostWrite8 x v).hostRead8 y = if y = x then v else c.hostRead8 y := by
  cases x <;> cases y <;> rfl

theorem Cpu.hostRead16_hostWrite16 (c : Cpu) (x y : HostReg16) (w : Word) :
    (c.hostWrite16 x w).hostRead16 y = if y = x then w else c.hostRead16 y := by
  cases x <;> cases y <;> rfl

theorem Cpu.hostReadBit_hostWriteBit (c : Cpu) (x y : HostBit) (b : Bool) :
    (c.hostWriteBit x b).hostReadBit y = if y = x then b else c.hostReadBit y := by
  cases x <;> cases y <;> rfl

theorem Cpu.hostWrite8_frame (c : Cpu) (x : HostReg8) (v : Byte) :
    (∀ y, (c.hostWrite8 x v).hostRead16 y = c.hostRead16 y) ∧
      (∀ y, (c.hostWrite8 x v).hostReadBit y = c.hostReadBit y) ∧ (c.hostWrite8 x v).im = c.im := by
  cases x <;> exact ⟨fun _ => rfl, fun _ => rfl, rfl⟩

theorem Cpu.hostWrite16_frame (c : Cpu) (x : HostReg16) (w : Word) :
    (∀ y, (c.hostWrite16 x w).hostRead8 y = c.hostRead8 y) ∧
      (∀ y, (c.hostWrite16 x w).hostReadBit y = c.hostReadBit y) ∧ (c.hostWrite16 x w).im = c.im := by
  cases x <;> exact ⟨fun _ => rfl, fun _ => rfl, rfl⟩

theorem Cpu.hostWriteBit_frame (c : Cpu) (x : HostBit) (b : Bool) :
    (∀ y, (c.hostWriteBit x b).hostRead8 y = c.hostRead8 y) ∧
      (∀ y, (c.hostWriteBit x b).hostRead16 y = c.hostRead16 y) ∧ (c.hostWriteBit x b).im = c.im := by
  cases x <;> exact ⟨fun _ => rfl, fun _ => rfl, rfl⟩

/-! ### Bytes loaded -/

/-- Loading changes memory alone. -/
theorem loadBytes_eq (addr : Nat) (bytes : List Byte) (s : State) :
    loadBytes addr bytes s = { s with mem := (loadBytes addr bytes s).mem } := by
  induction bytes generalizing addr s with
  | nil => rfl
  | cons v rest ih =>
    rw [loadBytes, ih]
    split <;> rfl

/-- One byte loaded, dropped past the 64 KiB bound. -/
theorem read_loadBytes_singleton {s : State} (h : s.mem.wf) (addr : Nat) (v : Byte) {x : Nat} (hx : x ≤ 0xFFFF) :
    (loadBytes addr [v] s).mem.read x = if x = addr then v else s.mem.read x := by
  have hone : loadBytes addr [v] s = if addr ≤ 0xFFFF then { s with mem := s.mem.write addr v } else s := rfl
  rw [hone]
  by_cases hxa : x = addr
  · subst hxa
    rw [if_pos hx, if_pos rfl]
    exact Memory.read_write_self h x v
  · rw [if_neg hxa]
    split
    · exact Memory.read_write_of_ne hxa s.mem v
    · rfl

/-- A loaded byte reads back where it went, below the 64 KiB bound; the rest of memory is kept. -/
theorem read_loadBytes {s : State} (h : s.mem.wf) (addr : Nat) (bytes : List Byte) {x : Nat} (hx : x ≤ 0xFFFF) :
    (loadBytes addr bytes s).mem.read x
      = if addr ≤ x ∧ x < addr + bytes.length then bytes.getD (x - addr) 0 else s.mem.read x := by
  induction bytes generalizing addr s with
  | nil => rw [if_neg (by simp)]; rfl
  | cons v rest ih =>
    have hcons : loadBytes addr (v :: rest) s = loadBytes (addr + 1) rest (loadBytes addr [v] s) := rfl
    rw [hcons, ih (loadBytes_wf h addr [v]), read_loadBytes_singleton h addr v hx, List.length_cons]
    rcases Nat.lt_trichotomy x addr with hlt | rfl | hgt
    · rw [if_neg (by omega), if_neg (by omega), if_neg (by omega)]
    · rw [if_neg (by omega), if_pos rfl, if_pos (by omega), Nat.sub_self, List.getD_cons_zero]
    · obtain ⟨k, rfl⟩ := Nat.exists_eq_add_of_lt hgt
      have hk : addr + k + 1 - (addr + 1) = k := by omega
      have hk1 : addr + k + 1 - addr = k + 1 := by omega
      rw [hk, hk1, List.getD_cons_succ, if_neg (by omega : addr + k + 1 ≠ addr)]
      exact if_congr (by omega) rfl rfl

theorem clearRam_byteAt {s : State} (h : s.mem.wf) (x : Word) :
    (clearRam s).byteAt x = if s.isReadOnly x then s.byteAt x else 0 := by
  have hx : BitVec.ofNat 16 x.toNat = x := by simp
  have hr := Memory.read_filter h (fun cell => s.isReadOnly (BitVec.ofNat 16 cell.1))
    (fun a => s.isReadOnly (BitVec.ofNat 16 a)) (fun _ _ => rfl) x.toNat
  rw [hx] at hr
  exact hr

theorem hostStep_of_no_fault {s : State} (h : s.fault = none) (call : HostCall) : hostStep call s = hostAct call s := by
  simp [hostStep, h]

end Sys2Proof.Machine

open Sys2Proof Sys2Proof.Machine

/-- Settles O60: bytes by `read_loadBytes` and `clearRam_byteAt`, the map by `isReadOnlyIn_setReadOnlyIn`, registers by
one read-after-write law per width. -/
theorem hostLoadClearAndReadOnlyMap : Obligations.HostLoadClearAndReadOnlyMap := by
  unfold Obligations.HostLoadClearAndReadOnlyMap
  intro s addr a x bytes b hm hf
  simp only [hostStep_of_no_fault hf, List.forall_mem_cons, List.not_mem_nil, false_implies, implies_true, and_true]
  refine ⟨?_, clearRam_byteAt hm x, ?_, ?_, rfl, ?_, fun _ => rfl, fun reg v => ?_, fun reg w => ?_, fun reg v => ?_,
    fun _ => rfl, rfl, rfl, rfl⟩
  · exact read_loadBytes hm addr.toNat bytes (Nat.le_of_lt_succ x.isLt)
  · exact isReadOnlyIn_setReadOnlyIn s.roFlips a x b
  · exact ⟨loadBytes_roFlips addr.toNat bytes s, rfl⟩
  · have hload : hostAct (.load addr bytes) s = _ := loadBytes_eq addr.toNat bytes s
    rw [hload]
    exact ⟨⟨rfl, rfl, rfl, hf⟩, ⟨rfl, rfl, rfl, hf⟩, rfl, rfl, rfl, hf⟩
  · obtain ⟨h16, hbit, him⟩ := s.cpu.hostWrite8_frame reg v
    exact ⟨_, rfl, fun other => s.cpu.hostRead8_hostWrite8 reg other v, h16, hbit, him⟩
  · obtain ⟨h8, hbit, him⟩ := s.cpu.hostWrite16_frame reg w
    exact ⟨_, rfl, fun other => s.cpu.hostRead16_hostWrite16 reg other w, h8, hbit, him⟩
  · obtain ⟨h8, h16, him⟩ := s.cpu.hostWriteBit_frame reg v
    exact ⟨_, rfl, fun other => s.cpu.hostReadBit_hostWriteBit reg other v, h8, h16, him⟩

end

section
/-! PROOFS. The fields of an opcode byte and the operand tables with their codes, each read back from what the encoder
writes. -/

namespace Sys2Proof.Machine

/-! ### The fields of an opcode byte (rule R131) -/

section
variable {x y z p q : Nat}

@[simp] theorem opX_opByte (hx : x < 4) (hy : y < 8) (hz : z < 8) : opX (opByte x y z) = x := by
  rw [opX, opByte, BitVec.toNat_ofNat]
  omega

@[simp] theorem opY_opByte (hy : y < 8) (hz : z < 8) : opY (opByte x y z) = y := by
  rw [opY, opByte, BitVec.toNat_ofNat]
  omega

@[simp] theorem opZ_opByte (hz : z < 8) : opZ (opByte x y z) = z := by
  rw [opZ, opByte, BitVec.toNat_ofNat]
  omega

theorem opP_opByte (hy : y < 8) (hz : z < 8) : opP (opByte x y z) = y / 2 := by
  rw [opP, opByte, BitVec.toNat_ofNat]
  omega

theorem opQ_opByte (hz : z < 8) : opQ (opByte x y z) = y % 2 := by
  rw [opQ, opByte, BitVec.toNat_ofNat]
  omega

@[simp] theorem opX_opByteP (hx : x < 4) (hp : p < 4) (hq : q < 2) (hz : z < 8) : opX (opByteP x p q z) = x :=
  opX_opByte hx (by omega) hz

@[simp] theorem opZ_opByteP (hz : z < 8) : opZ (opByteP x p q z) = z := opZ_opByte hz

@[simp] theorem opP_opByteP (hp : p < 4) (hq : q < 2) (hz : z < 8) : opP (opByteP x p q z) = p := by
  rw [opByteP, opP_opByte (by omega) hz]
  omega

@[simp] theorem opQ_opByteP (hq : q < 2) (hz : z < 8) : opQ (opByteP x p q z) = q := by
  rw [opByteP, opQ_opByte hz]
  omega

@[simp] theorem opYFin_opByte (y : Fin 8) (hz : z < 8) : opYFin (opByte x y.val z) = y := by
  rw [opYFin, opY_opByte y.isLt hz, Fin.ofNat_val_eq_self]

@[simp] theorem opZFin_opByte (z : Fin 8) : opZFin (opByte x y z.val) = z := by
  rw [opZFin, opZ_opByte z.isLt, Fin.ofNat_val_eq_self]

/-- An opcode byte is made of its fields. -/
theorem exists_opByte {op : Byte} (hx : opX op = x) : ∃ y z, y < 8 ∧ z < 8 ∧ op = opByte x y z := by
  refine ⟨opY op, opZ op, Nat.mod_lt _ (by decide), Nat.mod_lt _ (by decide), BitVec.eq_of_toNat_eq ?_⟩
  have h := op.isLt
  rw [opByte, BitVec.toNat_ofNat, ← hx, opX, opY, opZ]
  omega

theorem opX_cases (op : Byte) : opX op = 0 ∨ opX op = 1 ∨ opX op = 2 ∨ opX op = 3 := by
  have h := op.isLt
  unfold opX
  omega

end

/-! ### Operands and their codes (rules R134 to R137) -/

@[simp] theorem reg8Code_lt (r : Reg8) : reg8Code r < 8 := by cases r <;> decide
@[simp] theorem copyCode_lt (cp : Option Reg8) : copyCode cp < 8 := by
  cases cp with
  | none => decide
  | some r => exact reg8Code_lt r
@[simp] theorem rpCode_lt (rr : Rp) : rpCode rr < 4 := by cases rr <;> decide
@[simp] theorem rp2Code_lt (qq : Rp2) : rp2Code qq < 4 := by cases qq <;> decide
@[simp] theorem rpXYCode_lt (rr : RpXY) : rpXYCode rr < 4 := by cases rr <;> decide
@[simp] theorem condCode_lt (cc : Cond) : condCode cc < 8 := by cases cc <;> decide

@[simp] theorem reg8Of_six : reg8Of 6 = none := rfl
@[simp] theorem reg8Of_reg8Code (r : Reg8) : reg8Of (reg8Code r) = some r := by cases r <;> rfl
@[simp] theorem reg8Of_copyCode (cp : Option Reg8) : reg8Of (copyCode cp) = cp := by
  cases cp with
  | none => rfl
  | some r => exact reg8Of_reg8Code r
@[simp] theorem rpOf_rpCode (rr : Rp) : rpOf (rpCode rr) = rr := by cases rr <;> rfl
@[simp] theorem rp2Of_rp2Code (qq : Rp2) : rp2Of (rp2Code qq) = qq := by cases qq <;> rfl
@[simp] theorem rpXYOf_rpXYCode (rr : RpXY) : rpXYOf (rpXYCode rr) = rr := by cases rr <;> rfl
@[simp] theorem condOf_condCode (cc : Cond) : condOf (condCode cc) = cc := by cases cc <;> rfl

theorem isHalf_eq (r : Reg8) : isHalf r = (r == .h || r == .l) := by cases r <;> rfl

/-- A 3-bit field of `reg8` is the code of a register or, where it is 6, of none. -/
theorem exists_copyCode {z : Nat} (hz : z < 8) : ∃ r, z = copyCode r := ⟨reg8Of z, by interval_cases z <;> rfl⟩

/-- Two operand bytes are the halves of a word. -/
theorem exists_word (lo hi : Byte) : ∃ nn, loByte nn = lo ∧ hiByte nn = hi := ⟨join hi lo, by simp⟩

/-! ### Well-formed instructions by the fields of their bytes -/

/-- The unused ED opcodes, which rule R149 lists by value, by their fields. -/
theorem edUnused_iff (op : Byte) :
    edUnused op = true ↔ opX op = 0 ∨ opX op = 3 ∨ (opX op = 1 ∧ opZ op = 7 ∧ 6 ≤ opY op) ∨
      (opX op = 2 ∧ (opY op < 4 ∨ 4 ≤ opZ op)) := by
  revert op
  decide

theorem wellFormed_ldRRHalf (x : XY) (r r2 : Reg8) : (Instr.ldRRHalf x r r2).wellFormed = (isHalf r || isHalf r2) := by
  rw [isHalf_eq, isHalf_eq, ← Bool.or_assoc]
  rfl

end Sys2Proof.Machine
end

section
/-! PROOFS. Decoding what the encoder writes gives the instruction back. -/

namespace Sys2Proof.Machine

/-! ### The instruction at the head of a list of bytes -/

/-- The instruction the first four bytes of a list decode to, 0 for a byte beyond its end. -/
def decodeHead (bs : List Byte) : Instr := decodeWindow (bs.getD 0 0) (bs.getD 1 0) (bs.getD 2 0) (bs.getD 3 0)

section
variable {op : Byte} (x : XY) (t : List Byte)

theorem decodeHead_x0 (h : opX op = 0) :
    decodeHead (op :: t) = decodeX0 op (t.getD 0 0) (join (t.getD 1 0) (t.getD 0 0)) := by
  simp [decodeHead, decodeWindow, h]

theorem decodeHead_x1 (h : opX op = 1) : decodeHead (op :: t) = decodeX1 op := by
  simp [decodeHead, decodeWindow, h]

theorem decodeHead_x2 (h : opX op = 2) : decodeHead (op :: t) = decodeX2 op := by
  simp [decodeHead, decodeWindow, h]

theorem decodeHead_x3 (h : opX op = 3) :
    decodeHead (op :: t) = decodeX3 op (t.getD 0 0) (t.getD 1 0) (t.getD 2 0) := by
  simp [decodeHead, decodeWindow, h]

variable (op)

theorem decodeHead_cb : decodeHead (0xCB#8 :: op :: t) = decodeCB op := by
  simp [decodeHead, decodeWindow, decodeX3, opX, opY, opZ]

theorem decodeHead_ed : decodeHead (0xED#8 :: op :: t) = decodeED op (join (t.getD 1 0) (t.getD 0 0)) := by
  simp [decodeHead, decodeWindow, decodeX3, opX, opZ, opQ, opP]

theorem decodeHead_xy : decodeHead (xyByte x :: op :: t) = decodeXY x op (t.getD 0 0) (t.getD 1 0) := by
  cases x <;> simp [xyByte, decodeHead, decodeWindow, decodeX3, opX, opZ, opQ, opP]

end

/-! ### The index map and the unused ED opcodes -/

theorem decodeIndex_cb (x : XY) (b2 b3 : Byte) : decodeIndex x 0xCB b2 b3 = none := by
  simp [decodeIndex, decodeIndexX3, opX, opY, opZ]

theorem decodeXY_of_index {x : XY} {op b2 b3 : Byte} {i : Instr} (h : decodeIndex x op b2 b3 = some i) :
    decodeXY x op b2 b3 = i := by
  have hop : op ≠ 0xCB := by
    rintro rfl
    exact nomatch (decodeIndex_cb x b2 b3).symm.trans h
  rw [decodeXY, if_neg hop, h]

theorem decodeHead_index {x : XY} {op : Byte} {t : List Byte} {i : Instr}
    (h : decodeIndex x op (t.getD 0 0) (t.getD 1 0) = some i) : decodeHead (xyByte x :: op :: t) = i := by
  rw [decodeHead_xy, decodeXY_of_index h]

/-- Which bytes the index map holds depends on neither the byte before it nor the operand bytes. -/
theorem isSome_decodeIndex (x : XY) (op b2 b3 : Byte) :
    (decodeIndex x op b2 b3).isSome = (decodeIndex .ix op 0 0).isSome := by
  simp only [decodeIndex, decodeIndexX0, decodeIndexX1, decodeIndexX2, decodeIndexX3]
  repeat' split
  all_goals rfl

/-- The bytes of rule R451 are the cells of the maps behind DD and FD. -/
theorem mem_indexMap_iff (x : XY) (op b2 b3 : Byte) :
    op ∈ indexMap ↔ op = 0xCB ∨ (decodeIndex x op b2 b3).isSome = true := by
  rw [isSome_decodeIndex]
  revert op
  decide

theorem decodeED_of_unused {op : Byte} (h : edUnused op = true) (nn : Word) : decodeED op nn = .edNop op := by
  rcases (edUnused_iff op).mp h with hx | hx | ⟨hx, hz, hy⟩ | ⟨hx, h⟩
  · simp only [decodeED, hx]
  · simp only [decodeED, hx]
  · simp only [decodeED, hx, decodeEDx1, hz]
    split
    case h_7 => rfl
    all_goals omega
  · simp only [decodeED, hx, decodeEDx2]
    split
    case h_17 => rfl
    all_goals omega

theorem wellFormed_lonePrefix_iff (x : XY) (q b2 b3 : Byte) :
    (Instr.lonePrefix x q).wellFormed = true ↔ q ≠ 0xCB ∧ decodeIndex x q b2 b3 = none := by
  rw [Instr.wellFormed, Bool.not_eq_true', ← Bool.not_eq_true, List.contains_iff_mem, mem_indexMap_iff x q b2 b3,
    not_or, Bool.not_eq_true, Option.isSome_eq_false_iff, Option.isNone_iff_eq_none]

/-- A well-formed IM is the one its y field names (rules R434 to R436). -/
theorem decodeIm_opByte {y : Fin 8} {i : Instr} (hi : i.wellFormed = true)
    (h : i = .im0 y ∨ i = .im1 y ∨ i = .im2 y) : decodeIm (opByte 1 y.val 6) = i := by
  rcases h with rfl | rfl | rfl <;> revert hi y <;> decide

/-! ### Every instruction -/

/-- An encoding is read back whatever stands behind it. Each arm names the map of its opcode byte; the fields that the
encoder put there are read back by the lemmas on `opByte` and the operand codes. -/
theorem decodeHead_encode (i : Instr) (hi : i.wellFormed = true) (t : List Byte) : decodeHead (encode i ++ t) = i := by
  cases i with
  -- an opcode byte with operand fields
  | ldRR r r2 | ldRMhl r | ldMhlR r => simp [encode, decodeHead_x1, decodeX1]
  | addAR r | adcAR r | subR r | sbcAR r | andR r | xorR r | orR r | cpR r =>
    simp [encode, decodeHead_x2, decodeX2, aluR]
  | ldRN r n | incR r | decR r | ldRpNn rr nn | addHlRp rr | incRp rr | decRp rr =>
    simp [encode, decodeHead_x0, decodeX0]
  | jrCc cc e => cases cc <;> simp [encode, decodeHead_x0, decodeX0, jrCondCode, jrCondOf]
  | retCc cc | jpCc cc nn | callCc cc nn | pushQq qq | popQq qq | rst y => simp [encode, decodeHead_x3, decodeX3]
  -- a constant opcode byte
  | nop | exAfAf | ldAMbc | ldAMde | ldMbcA | ldMdeA | rlca | rrca | rla | rra | daa | cpl | scf | ccf | incMhl
  | decMhl | djnz e | jr e | ldMhlN n | ldAMnn nn | ldMnnA nn | ldHlMnn nn | ldMnnHl nn =>
    simp [encode, decodeHead_x0, decodeX0, opX, opY, opZ, opP, opQ]
  | halt => simp [encode, decodeHead_x1, decodeX1, opX, opY, opZ]
  | addAMhl | adcAMhl | subMhl | sbcAMhl | andMhl | xorMhl | orMhl | cpMhl =>
    simp [encode, decodeHead_x2, decodeX2, opX, opY, opZ, aluMhl]
  | addAN n | adcAN n | subN n | sbcAN n | andN n | xorN n | orN n | cpN n =>
    simp [encode, decodeHead_x3, decodeX3, opX, opY, opZ, aluN]
  | ret | exx | jpHl | ldSpHl | exMspHl | exDeHl | di | ei | outMnA n | inAMn n | jp nn | call nn =>
    simp [encode, decodeHead_x3, decodeX3, opX, opY, opZ, opP, opQ]
  -- behind CB
  | rlcR r | rrcR r | rlR r | rrR r | slaR r | sraR r | sllR r | srlR r =>
    simp [encode, decodeHead_cb, decodeCB, rotR]
  | rlcMhl | rrcMhl | rlMhl | rrMhl | slaMhl | sraMhl | sllMhl | srlMhl =>
    simp [encode, decodeHead_cb, decodeCB, rotMhl, opX, opY, opZ]
  | bitR b r | resR b r | setR b r | bitMhl b | resMhl b | setMhl b => simp [encode, decodeHead_cb, decodeCB]
  -- behind ED
  | inRC r | outCR r | adcHlRp rr | sbcHlRp rr | ldRpMnn rr nn | ldMnnRp rr nn | neg y =>
    simp [encode, decodeHead_ed, decodeED, decodeEDx1]
  | retn y =>
    have hy : y.val ≠ 1 := fun h => by simp [Instr.wellFormed, Fin.ext_iff, h] at hi
    simp [encode, decodeHead_ed, decodeED, decodeEDx1, hy]
  | im0 y | im1 y | im2 y => simp [encode, decodeHead_ed, decodeED, decodeEDx1, decodeIm_opByte hi]
  | inFC | outC0 | ldAI | ldAR | ldIA | ldRA | rld | rrd | reti =>
    simp [encode, decodeHead_ed, decodeED, decodeEDx1, opX, opY, opZ]
  | ldi | ldd | ldir | lddr | cpi | cpd | cpir | cpdr | ini | ind | inir | indr | outi | outd | otir | otdr =>
    simp [encode, decodeHead_ed, decodeED, decodeEDx2, opX, opY, opZ]
  | edNop o => simp [encode, decodeHead_ed, decodeED_of_unused hi]
  -- behind DD and FD
  | rlcMxy x d cp | rrcMxy x d cp | rlMxy x d cp | rrMxy x d cp | slaMxy x d cp | sraMxy x d cp | sllMxy x d cp
  | srlMxy x d cp | bitMxy x d b z | resMxy x d b cp | setMxy x d b cp =>
    simp [encode, decodeHead_xy, decodeXY, decodeXYCB, rotMxy]
  | addXyRp x rr => exact decodeHead_index (by simp [decodeIndex, decodeIndexX0])
  | ldXyNn x nn | ldXyMnn x nn | ldMnnXy x nn | incXy x | decXy x | incMxy x d | decMxy x d | ldMxyN x d n =>
    exact decodeHead_index (by simp [decodeIndex, decodeIndexX0, opX, opY, opZ, opP, opQ])
  | incHalf x k | decHalf x k | ldHalfN x k n =>
    exact decodeHead_index (by cases k <;> simp [decodeIndex, decodeIndexX0, halfCode, halfOf])
  | ldRRHalf x r r2 =>
    rw [wellFormed_ldRRHalf] at hi
    exact decodeHead_index (by simp [decodeIndex, decodeIndexX1, hi])
  | ldRMxy x r d | ldMxyR x r d => exact decodeHead_index (by simp [decodeIndex, decodeIndexX1])
  | addAHalf x k | adcAHalf x k | subHalf x k | sbcAHalf x k | andHalf x k | xorHalf x k | orHalf x k | cpHalf x k =>
    exact decodeHead_index (by cases k <;> simp [decodeIndex, decodeIndexX2, halfCode, halfOf, aluHalf])
  | addAMxy x d | adcAMxy x d | subMxy x d | sbcAMxy x d | andMxy x d | xorMxy x d | orMxy x d | cpMxy x d =>
    exact decodeHead_index (by simp [decodeIndex, decodeIndexX2, opX, opY, opZ, aluMxy])
  | pushXy x | popXy x | exMspXy x | jpXy x | ldSpXy x =>
    exact decodeHead_index (by simp [decodeIndex, decodeIndexX3, opX, opY, opZ])
  | lonePrefix x q =>
    obtain ⟨hcb, hnone⟩ := (wellFormed_lonePrefix_iff x q (t.getD 0 0) (t.getD 1 0)).mp hi
    show decodeHead (xyByte x :: q :: t) = _
    rw [decodeHead_xy, decodeXY, if_neg hcb, hnone]

end Sys2Proof.Machine
end

section
/-! PROOFS. Every four bytes are read as a well-formed instruction whose encoding heads them, map by map. A cell of
a map whose fields are all fixed, or stand for registers, is read back by evaluation. With the section before, the
decoder is the inverse of the encoder (`decodeWindow_eq_iff`). -/

namespace Sys2Proof.Machine

/-- An instruction that some encoding stands for, and its encoding is a head of `bs`. -/
def ReadsBack (i : Instr) (bs : List Byte) : Prop := i.wellFormed = true ∧ encode i <+: bs

theorem readsBack_edNop {op : Byte} (h : edUnused op = true) (t : List Byte) :
    ReadsBack (.edNop op) (0xED :: op :: t) := ⟨h, t, rfl⟩

/-! ### The operation tables (rule R138) -/

section
variable {y : Nat}

theorem readsBack_aluR (hy : y < 8) (r : Reg8) (t : List Byte) :
    ReadsBack (aluR y r) (opByte 2 y (reg8Code r) :: t) := by interval_cases y <;> exact ⟨rfl, t, rfl⟩

theorem readsBack_aluN (hy : y < 8) (n : Byte) (t : List Byte) :
    ReadsBack (aluN y n) (opByte 3 y 6 :: n :: t) := by interval_cases y <;> exact ⟨rfl, t, rfl⟩

theorem readsBack_aluMhl (hy : y < 8) (t : List Byte) :
    ReadsBack (aluMhl y) (opByte 2 y 6 :: t) := by interval_cases y <;> exact ⟨rfl, t, rfl⟩

theorem readsBack_aluHalf (hy : y < 8) (x : XY) (k : Half) (t : List Byte) :
    ReadsBack (aluHalf y x k) (xyByte x :: opByte 2 y (halfCode k) :: t) := by
  interval_cases y <;> exact ⟨rfl, t, rfl⟩

theorem readsBack_aluMxy (hy : y < 8) (x : XY) (d : Byte) (t : List Byte) :
    ReadsBack (aluMxy y x d) (xyByte x :: opByte 2 y 6 :: d :: t) := by
  interval_cases y <;> exact ⟨rfl, t, rfl⟩

theorem readsBack_rotR (hy : y < 8) (r : Reg8) (t : List Byte) :
    ReadsBack (rotR y r) (0xCB :: opByte 0 y (reg8Code r) :: t) := by interval_cases y <;> exact ⟨rfl, t, rfl⟩

theorem readsBack_rotMhl (hy : y < 8) (t : List Byte) :
    ReadsBack (rotMhl y) (0xCB :: opByte 0 y 6 :: t) := by interval_cases y <;> exact ⟨rfl, t, rfl⟩

theorem readsBack_rotMxy (hy : y < 8) (x : XY) (d : Byte) (cp : Option Reg8) (t : List Byte) :
    ReadsBack (rotMxy y x d cp) (xyByte x :: 0xCB :: d :: opByte 0 y (copyCode cp) :: t) := by
  interval_cases y <;> exact ⟨rfl, t, rfl⟩

end

/-! ### The opcode maps (rules R142 to R148, R451) -/

theorem readsBack_decodeX0 {op : Byte} (hx : opX op = 0) (nn : Word) (t : List Byte) :
    ReadsBack (decodeX0 op (loByte nn) nn) (op :: loByte nn :: hiByte nn :: t) := by
  obtain ⟨y, z, hy, hz, rfl⟩ := exists_opByte hx
  simp only [decodeX0, opY_opByte hy hz, opZ_opByte hz, opP_opByte hy hz, opQ_opByte hz]
  match z, hz with
  | 4, _ | 5, _ | 6, _ =>
    obtain ⟨r, rfl⟩ := exists_copyCode hy
    rw [reg8Of_copyCode]
    cases r <;> exact ⟨rfl, _, rfl⟩
  | 0, _ | 1, _ | 2, _ | 3, _ | 7, _ => interval_cases y <;> exact ⟨rfl, _, rfl⟩

theorem readsBack_decodeX1 {op : Byte} (hx : opX op = 1) (t : List Byte) : ReadsBack (decodeX1 op) (op :: t) := by
  obtain ⟨y, z, hy, hz, rfl⟩ := exists_opByte hx
  rw [decodeX1, opY_opByte hy hz, opZ_opByte hz]
  obtain ⟨r, rfl⟩ := exists_copyCode hy
  obtain ⟨r2, rfl⟩ := exists_copyCode hz
  rw [reg8Of_copyCode, reg8Of_copyCode]
  cases r <;> cases r2 <;> exact ⟨rfl, t, rfl⟩

theorem readsBack_decodeX2 {op : Byte} (hx : opX op = 2) (t : List Byte) : ReadsBack (decodeX2 op) (op :: t) := by
  obtain ⟨y, z, hy, hz, rfl⟩ := exists_opByte hx
  obtain ⟨r, rfl⟩ := exists_copyCode hz
  rw [decodeX2, opY_opByte hy hz, opZ_opByte hz, reg8Of_copyCode]
  cases r with
  | none => exact readsBack_aluMhl hy t
  | some r => exact readsBack_aluR hy r t

theorem readsBack_decodeCB (op : Byte) (t : List Byte) : ReadsBack (decodeCB op) (0xCB :: op :: t) := by
  rcases opX_cases op with hx | hx | hx | hx <;> obtain ⟨y, z, hy, hz, rfl⟩ := exists_opByte hx <;>
    obtain ⟨r, rfl⟩ := exists_copyCode hz <;> rw [decodeCB, hx, opZ_opByte hz, reg8Of_copyCode]
  · rw [opY_opByte hy hz]
    cases r with
    | none => exact readsBack_rotMhl hy t
    | some r => exact readsBack_rotR hy r t
  all_goals
    lift y to Fin 8 using hy
    rw [opYFin_opByte y hz]
    cases r <;> exact ⟨rfl, t, rfl⟩

theorem readsBack_decodeED (op b2 b3 : Byte) (t : List Byte) :
    ReadsBack (decodeED op (join b3 b2)) (0xED :: op :: b2 :: b3 :: t) := by
  obtain ⟨nn, rfl, rfl⟩ := exists_word b2 b3
  rw [join_hiByte_loByte]
  rcases opX_cases op with hx | hx | hx | hx <;> obtain ⟨y, z, hy, hz, rfl⟩ := exists_opByte hx <;>
    simp only [decodeED, hx]
  · exact readsBack_edNop ((edUnused_iff _).mpr (.inl hx)) _
  · simp only [decodeEDx1, decodeIm, opY_opByte hy hz, opZ_opByte hz, opP_opByte hy hz, opQ_opByte hz]
    match z, hz with
    | 0, _ | 1, _ =>
      obtain ⟨r, rfl⟩ := exists_copyCode hy
      rw [reg8Of_copyCode]
      cases r <;> exact ⟨rfl, _, rfl⟩
    | 2, _ | 3, _ | 4, _ | 5, _ | 6, _ | 7, _ => interval_cases y <;> exact ⟨rfl, _, rfl⟩
  · simp only [decodeEDx2, opY_opByte hy hz, opZ_opByte hz]
    match z, hz with
    | 0, _ | 1, _ | 2, _ | 3, _ => interval_cases y <;> exact ⟨rfl, _, rfl⟩
    | 4, _ | 5, _ | 6, _ | 7, _ => exact readsBack_edNop ((edUnused_iff _).mpr (by simp [hy])) _
  · exact readsBack_edNop ((edUnused_iff _).mpr (.inr (.inl hx))) _

theorem readsBack_decodeXYCB (x : XY) (d op : Byte) (t : List Byte) :
    ReadsBack (decodeXYCB x d op) (xyByte x :: 0xCB :: d :: op :: t) := by
  rcases opX_cases op with hx | hx | hx | hx <;> obtain ⟨y, z, hy, hz, rfl⟩ := exists_opByte hx <;>
    obtain ⟨cp, rfl⟩ := exists_copyCode hz <;> rw [decodeXYCB, hx]
  · rw [opY_opByte hy hz, opZ_opByte hz, reg8Of_copyCode]
    exact readsBack_rotMxy hy x d cp t
  · lift y to Fin 8 using hy
    rw [opYFin_opByte y hz, opZFin_opByte ⟨copyCode cp, hz⟩]
    exact ⟨rfl, t, rfl⟩
  all_goals
    lift y to Fin 8 using hy
    rw [opYFin_opByte y hz, opZ_opByte hz, reg8Of_copyCode]
    exact ⟨rfl, t, rfl⟩

theorem readsBack_decodeIndex {x : XY} {op : Byte} {nn : Word} {i : Instr}
    (h : decodeIndex x op (loByte nn) (hiByte nn) = some i) (t : List Byte) :
    ReadsBack i (xyByte x :: op :: loByte nn :: hiByte nn :: t) := by
  rcases opX_cases op with hx | hx | hx | hx <;> obtain ⟨y, z, hy, hz, rfl⟩ := exists_opByte hx <;>
    simp only [decodeIndex, hx] at h
  · simp only [decodeIndexX0, opY_opByte hy hz, opZ_opByte hz, opP_opByte hy hz, opQ_opByte hz,
      join_hiByte_loByte] at h
    match z, hz with
    | 0, _ | 7, _ => cases h
    | 1, _ | 2, _ | 3, _ | 4, _ | 5, _ | 6, _ => interval_cases y <;> cases h <;> exact ⟨rfl, _, rfl⟩
  · obtain ⟨r, rfl⟩ := exists_copyCode hy
    obtain ⟨r2, rfl⟩ := exists_copyCode hz
    rw [decodeIndexX1, opY_opByte hy hz, opZ_opByte hz, reg8Of_copyCode, reg8Of_copyCode] at h
    split at h
    · obtain ⟨hhalf, hi⟩ := Option.ite_none_right_eq_some.mp h
      cases hi
      exact ⟨(wellFormed_ldRRHalf x _ _).trans hhalf, _, rfl⟩
    all_goals cases h <;> exact ⟨rfl, _, rfl⟩
  · rw [decodeIndexX2, opY_opByte hy hz, opZ_opByte hz] at h
    split at h <;> cases h
    · exact readsBack_aluHalf hy x .high _
    · exact readsBack_aluHalf hy x .low _
    · exact readsBack_aluMxy hy x _ _
  · rw [decodeIndexX3, opY_opByte hy hz, opZ_opByte hz] at h
    split at h <;> cases h <;> exact ⟨rfl, _, rfl⟩

theorem readsBack_decodeXY (x : XY) (op b2 b3 : Byte) (t : List Byte) :
    ReadsBack (decodeXY x op b2 b3) (xyByte x :: op :: b2 :: b3 :: t) := by
  obtain ⟨nn, rfl, rfl⟩ := exists_word b2 b3
  by_cases hcb : op = 0xCB
  · subst hcb
    exact readsBack_decodeXYCB x _ _ t
  · cases h : decodeIndex x op (loByte nn) (hiByte nn) with
    | none =>
      rw [decodeXY, if_neg hcb, h]
      exact ⟨(wellFormed_lonePrefix_iff x op _ _).mpr ⟨hcb, h⟩, _, rfl⟩
    | some i =>
      rw [decodeXY_of_index h]
      exact readsBack_decodeIndex h t

theorem readsBack_decodeX3 {op : Byte} (hx : opX op = 3) (b1 b2 b3 : Byte) (t : List Byte) :
    ReadsBack (decodeX3 op b1 b2 b3) (op :: b1 :: b2 :: b3 :: t) := by
  obtain ⟨y, z, hy, hz, rfl⟩ := exists_opByte hx
  obtain ⟨nn, rfl, rfl⟩ := exists_word b1 b2
  simp only [decodeX3, opY_opByte hy hz, opZ_opByte hz, opP_opByte hy hz, opQ_opByte hz, join_hiByte_loByte]
  match z, hz with
  | 3, _ =>
    match y, hy with
    | 1, _ => exact readsBack_decodeCB _ _
    | 0, _ | 2, _ | 3, _ | 4, _ | 5, _ | 6, _ | 7, _ => exact ⟨rfl, _, rfl⟩
  | 5, _ =>
    match y, hy with
    | 3, _ => exact readsBack_decodeXY .ix _ _ _ t
    | 5, _ => exact readsBack_decodeED _ _ _ t
    | 7, _ => exact readsBack_decodeXY .iy _ _ _ t
    | 0, _ | 1, _ | 2, _ | 4, _ | 6, _ => exact ⟨rfl, _, rfl⟩
  | 6, _ => exact readsBack_aluN hy _ _
  | 0, _ | 1, _ | 2, _ | 4, _ | 7, _ => interval_cases y <;> exact ⟨rfl, _, rfl⟩

theorem readsBack_decodeWindow (b0 b1 b2 b3 : Byte) : ReadsBack (decodeWindow b0 b1 b2 b3) [b0, b1, b2, b3] := by
  rcases opX_cases b0 with hx | hx | hx | hx <;> rw [decodeWindow, hx]
  · obtain ⟨nn, rfl, rfl⟩ := exists_word b1 b2
    rw [join_hiByte_loByte]
    exact readsBack_decodeX0 hx nn _
  · exact readsBack_decodeX1 hx _
  · exact readsBack_decodeX2 hx _
  · exact readsBack_decodeX3 hx b1 b2 b3 _

/-- The decoder reads the one well-formed instruction whose encoding stands at the head of the window. -/
theorem decodeWindow_eq_iff {b0 b1 b2 b3 : Byte} {i : Instr} :
    decodeWindow b0 b1 b2 b3 = i ↔ ReadsBack i [b0, b1, b2, b3] := by
  refine ⟨fun h => h ▸ readsBack_decodeWindow b0 b1 b2 b3, fun ⟨hi, t, ht⟩ => ?_⟩
  rw [← decodeHead_encode i hi t, ht]
  rfl

end Sys2Proof.Machine

open Sys2Proof Sys2Proof.Machine

/-- Settles O1: `decodeHead_encode`, and the list is as long as the encoding that heads it. -/
theorem decodeOfEncodeGivesTheInstructionBack : Obligations.DecodeOfEncodeGivesTheInstructionBack := by
  unfold Obligations.DecodeOfEncodeGivesTheInstructionBack
  intro i rest hi
  have hlen : ¬(encode i ++ rest).length < (encode i).length := by simp
  have h := decodeHead_encode i hi rest
  rw [decodeHead] at h
  rw [decode, h, if_neg hlen]

/-- Settles O2: `readsBack_decodeWindow`, map by map. -/
theorem everyByteSequenceDecodesAndEncodesBack : Obligations.EveryByteSequenceDecodesAndEncodesBack := by
  unfold Obligations.EveryByteSequenceDecodesAndEncodesBack
  intro b0 b1 b2 b3
  obtain ⟨hwf, hhead⟩ := readsBack_decodeWindow b0 b1 b2 b3
  exact ⟨hwf, List.prefix_iff_eq_take.mp hhead⟩

/-- Settles O3: an instruction decoded is one encoded (`decodeWindow_eq_iff`), and the two lists of bytes are what makes
a lone DD or FD byte and an ED NOP well formed. -/
theorem lonePrefixesAndEdNopsAreExactlyTheListedBytes : Obligations.LonePrefixesAndEdNopsAreExactlyTheListedBytes := by
  unfold Obligations.LonePrefixesAndEdNopsAreExactlyTheListedBytes
  refine ⟨fun x o b2 b3 => ?_, fun o b2 b3 => ?_, rfl⟩
  · have hwf : (Instr.lonePrefix x o).wellFormed = true ↔ o ∉ indexMap := by simp [Instr.wellFormed]
    rw [decodeWindow_eq_iff, ReadsBack, hwf]
    exact and_iff_left ⟨_, rfl⟩
  · rw [decodeWindow_eq_iff]
    exact and_iff_left ⟨_, rfl⟩

end

section
/-! PROOFS. Pushes and pops of pairs and index registers. -/

namespace Sys2Proof.Machine

/-- The word on top of the stack popped, and what becomes of the registers with it. -/
theorem Reaches.popWord {s u : State} {acts : List Act} {c : Cpu} (h : Reaches s acts c u) (f : Word → Cpu → Cpu)
    (hs : stores acts = [] := by rfl) :
    Reaches s (acts ++ popActs c) (f (s.wordAt c.sp) { c with sp := c.sp + 2 })
      ((Machine.pop u).upd (f (u.wordAt u.cpu.sp))) := by
  obtain rfl := h.cpu
  have hsp : u.cpu.sp + 1 + 1 = u.cpu.sp + 2 := by bv_omega
  have h2 := (h.pop hs).upd (f (s.wordAt u.cpu.sp))
  rw [hsp] at h2
  rwa [h.wordAt_eq hs]

end Sys2Proof.Machine

open Sys2Proof Sys2Proof.Machine

/-- Settles O30: a push and a pop behind one opcode fetch, or two for an index register. -/
theorem pushAndPopOfPairsAndIndexRegisters : Obligations.PushAndPopOfPairsAndIndexRegisters := by
  unfold Obligations.PushAndPopOfPairsAndIndexRegisters
  rintro s qq x _ rfl
  have one := Reaches.start s
  have two := one.m1
  refine ⟨rfl, rfl, rfl, ?_, ?_, rfl, ?_, ?_⟩
  · exact ((one.icIR 1).push fun _ => s.cpu.getRp2 qq).runsAs_endPlain rfl
  · exact (one.popWord (Cpu.setRp2 qq)).runsAs_endPlain rfl
  · exact ((two.icIR 1).push fun _ => s.cpu.getXy x).runsAs_endPlain rfl
  · exact (two.popWord (Cpu.setXy x)).runsAs_endPlain rfl

end

section
/-! PROOFS. Words of every prefix family, read back from the encodings of their instructions. -/

open Sys2Proof Sys2Proof.Machine

/-- Settles O4: by `decodeWindow_eq_iff`, a word decodes to the well-formed instruction whose encoding heads it. -/
theorem wordsOfEveryPrefixFamilyDecodeAsTheTableSays : Obligations.WordsOfEveryPrefixFamilyDecodeAsTheTableSays := by
  unfold Obligations.WordsOfEveryPrefixFamilyDecodeAsTheTableSays
  simp only [decodeWindow_eq_iff]
  refine ⟨?_, ?_, ?_, ?_, ?_, ?_, ?_, ?_, ?_⟩ <;> exact ⟨rfl, _, rfl⟩

end

section
/-! PROOFS. Exchanges of registers and of the word on top of the stack. -/

namespace Sys2Proof.Machine

/-- The word on top of the stack exchanged with `val`, and what becomes of the registers with the word read. -/
theorem Reaches.exchangeTop {s u : State} {acts : List Act} {c : Cpu} (h : Reaches s acts c u) (val : Cpu → Word)
    (f : Word → Cpu → Cpu) (hs : stores acts = [] := by rfl) :
    Reaches s (acts ++ swapActs c (val c)) (f (s.wordAt c.sp) c)
      ((Machine.swapTop (val u.cpu) u).upd (f (u.wordAt u.cpu.sp))) := by
  obtain rfl := h.cpu
  rw [h.wordAt_eq hs]
  exact (h.swapTop val hs).upd (f (s.wordAt u.cpu.sp))

end Sys2Proof.Machine

open Sys2Proof Sys2Proof.Machine

/-- Settles O31: three exchanges of registers behind one opcode fetch, and `exchangeTop` behind one, or two for an index
register. -/
theorem exchangesOfRegistersAndStackTop : Obligations.ExchangesOfRegistersAndStackTop := by
  unfold Obligations.ExchangesOfRegistersAndStackTop
  rintro s x _ rfl
  have one := Reaches.start s
  have two := one.m1
  have hstores : stores (cycles .exMspHl s) = [(s.cpu.sp + 1, hiByte s.cpu.hl), (s.cpu.sp, loByte s.cpu.hl)] := rfl
  rw [Cpu.hl, hiByte_join, loByte_join] at hstores
  refine ⟨?_, hstores, ?_, ?_, ?_, rfl, ?_⟩
  · exact (one.upd fun c => { c with d := c.h, e := c.l, h := c.d, l := c.e }).runsAs_endPlain rfl
  · have h := one.exchangeTop Cpu.hl fun w c => { c.setHl w with memptr := w }
    rw [Cpu.setHl, State.wordAt, hiByte_join, loByte_join] at h
    exact h.runsAs_endPlain rfl
  · exact (one.upd fun c => { c with a := c.aAlt, f := c.fAlt, aAlt := c.a, fAlt := c.f }).runsAs_endPlain rfl
  · exact (one.upd fun c => { c with
      b := c.bAlt, c := c.cAlt, d := c.dAlt, e := c.eAlt, h := c.hAlt, l := c.lAlt
      bAlt := c.b, cAlt := c.c, dAlt := c.d, eAlt := c.e, hAlt := c.h, lAlt := c.l }).runsAs_endPlain rfl
  · have h := two.exchangeTop (Cpu.getXy x) fun w c => { c.setXy x w with memptr := w }
    rw [Cpu.getXy_of_fetched] at h
    exact h.runsAs_endPlain rfl

end

section
/-! PROOFS. The flags byte as its parts: `packFlags` puts together the flags of a result, each flag is read back from it
once, and each flag function of 42_alu8.md is written with it. -/

namespace Sys2Proof.Machine

/-! ### A flags byte and the flags read back from it -/

/-- S, Z, Y and X of `res`, with H, PV, N and C given. -/
def packFlags (res : Byte) (h pv n c : Bool) : Byte :=
  sz53 res ||| maskIf h 0x10 ||| maskIf pv 0x04 ||| maskIf n 0x02 ||| maskIf c 0x01

theorem getLsbD_maskIf (b : Bool) (m : Byte) (k : Nat) : (maskIf b m).getLsbD k = (b && m.getLsbD k) := by
  cases b <;> simp [maskIf]

theorem getLsbD_packFlags (res : Byte) (h pv n c : Bool) (k : Nat) :
    (packFlags res h pv n c).getLsbD k =
      (res.getLsbD k && (0xA8 : Byte).getLsbD k || (res == 0) && (0x40 : Byte).getLsbD k ||
        h && (0x10 : Byte).getLsbD k || pv && (0x04 : Byte).getLsbD k || n && (0x02 : Byte).getLsbD k ||
        c && (0x01 : Byte).getLsbD k) := by
  simp only [packFlags, sz53, BitVec.getLsbD_or, BitVec.getLsbD_and, getLsbD_maskIf]

section
variable (res : Byte) (h pv n c : Bool)

@[simp] theorem flagS_packFlags : flagS (packFlags res h pv n c) = res.getLsbD 7 := by
  rw [flagS, getLsbD_packFlags]; simp
@[simp] theorem flagZ_packFlags : flagZ (packFlags res h pv n c) = (res == 0) := by
  rw [flagZ, getLsbD_packFlags]; simp
@[simp] theorem flagY_packFlags : flagY (packFlags res h pv n c) = res.getLsbD 5 := by
  rw [flagY, getLsbD_packFlags]; simp
@[simp] theorem flagH_packFlags : flagH (packFlags res h pv n c) = h := by
  rw [flagH, getLsbD_packFlags]; simp
@[simp] theorem flagX_packFlags : flagX (packFlags res h pv n c) = res.getLsbD 3 := by
  rw [flagX, getLsbD_packFlags]; simp
@[simp] theorem flagPV_packFlags : flagPV (packFlags res h pv n c) = pv := by
  rw [flagPV, getLsbD_packFlags]; simp
@[simp] theorem flagN_packFlags : flagN (packFlags res h pv n c) = n := by
  rw [flagN, getLsbD_packFlags]; simp
@[simp] theorem flagC_packFlags : flagC (packFlags res h pv n c) = c := by
  rw [flagC, getLsbD_packFlags]; simp

end

/-- C put in place of the one that stands there. -/
theorem packFlags_replace_carry (res f : Byte) (h pv n c : Bool) :
    (packFlags res h pv n c &&& 0xFE) ||| (f &&& 0x01) = packFlags res h pv n (flagC f) := by
  refine BitVec.eq_of_getLsbD_eq fun k hk => ?_
  rw [BitVec.getLsbD_or, BitVec.getLsbD_and, BitVec.getLsbD_and, getLsbD_packFlags, getLsbD_packFlags, flagC]
  interval_cases k <;> simp

/-! ### Bytes as numbers -/

theorem getLsbD_seven (v : Byte) : v.getLsbD 7 = decide (128 ≤ v.toNat) := by revert v; decide

theorem toInt_cases (v : Byte) :
    128 ≤ v.toNat ∧ v.toInt = v.toNat - 256 ∨ v.toNat < 128 ∧ v.toInt = v.toNat := by revert v; decide

theorem nibble_eq_and (v : Byte) : nibble v = (v &&& 0x0F).toNat := by revert v; decide

theorem nibble_beq (v k : Byte) : (nibble v == k.toNat) = (v &&& 0x0F == k) := by
  rw [nibble_eq_and, Bool.eq_iff_iff, beq_iff_eq, beq_iff_eq, BitVec.toNat_inj]

theorem maskIf_flagC (f : Byte) : maskIf (flagC f) 0x01 = f &&& 0x01 := maskIf_bit0 f

theorem or_maskIf_false (v m : Byte) : v ||| maskIf false m = v := BitVec.or_zero

/-! ### The flag functions (rules R240 to R247) -/

theorem add8_fst_toNat (a b : Byte) (c : Bool) : (add8 a b c).1.toNat = (a.toNat + b.toNat + c.toNat) % 256 := by
  simp [add8]

theorem add8_fst (a b : Byte) : (add8 a b false).1 = a + b :=
  BitVec.eq_of_toNat_eq ((add8_fst_toNat a b false).trans (BitVec.toNat_add a b).symm)

theorem add8_snd (a b : Byte) (c : Bool) :
    (add8 a b c).2 = packFlags (add8 a b c).1 (decide (nibble a + nibble b + c.toNat > 0xF))
      (a.getLsbD 7 == b.getLsbD 7 && (add8 a b c).1.getLsbD 7 != a.getLsbD 7) false
      (decide (a.toNat + b.toNat + c.toNat > 0xFF)) := by
  rw [packFlags, or_maskIf_false]; rfl

theorem sub8_fst_toNat (a b : Byte) (c : Bool) :
    ((sub8 a b c).1.toNat : Int) = ((a.toNat : Int) - b.toNat - c.toNat) % 256 := by
  have h : 0 ≤ ((a.toNat : Int) - b.toNat - c.toNat) % 256 := by omega
  rw [sub8, BitVec.toNat_ofInt]
  exact Int.toNat_of_nonneg h

theorem sub8_fst (a b : Byte) : (sub8 a b false).1 = a - b := by
  have h := sub8_fst_toNat a b false
  bv_omega

theorem sub8_snd (a b : Byte) (c : Bool) :
    (sub8 a b c).2 = packFlags (sub8 a b c).1 (decide ((nibble a : Int) - nibble b - c.toNat < 0))
      (a.getLsbD 7 != b.getLsbD 7 && (sub8 a b c).1.getLsbD 7 != a.getLsbD 7) true
      (decide ((a.toNat : Int) - b.toNat - c.toNat < 0)) := rfl

/-- The sum of two signed bytes leaves the signed range where they have one sign and the result the other. -/
theorem add8_overflow (a b : Byte) (c : Bool) :
    (a.getLsbD 7 == b.getLsbD 7 && (add8 a b c).1.getLsbD 7 != a.getLsbD 7)
      = decide (a.toInt + b.toInt + c.toNat < -128 ∨ a.toInt + b.toInt + c.toNat > 127) := by
  have hres := add8_fst_toNat a b c
  have hc := Bool.toNat_le c
  have ha := toInt_cases a
  have hb := toInt_cases b
  rw [getLsbD_seven, getLsbD_seven, getLsbD_seven, Bool.eq_iff_iff]
  simp only [Bool.and_eq_true, beq_iff_eq, bne_iff_ne, ne_eq, decide_eq_decide, decide_eq_true_eq]
  omega

/-- The difference of two signed bytes leaves the signed range where their signs differ and the result has not the
first one's. -/
theorem sub8_overflow (a b : Byte) (c : Bool) :
    (a.getLsbD 7 != b.getLsbD 7 && (sub8 a b c).1.getLsbD 7 != a.getLsbD 7)
      = decide (a.toInt - b.toInt - c.toNat < -128 ∨ a.toInt - b.toInt - c.toNat > 127) := by
  have hres := sub8_fst_toNat a b c
  have hc := Bool.toNat_le c
  have ha := toInt_cases a
  have hb := toInt_cases b
  rw [getLsbD_seven, getLsbD_seven, getLsbD_seven, Bool.eq_iff_iff]
  simp only [Bool.and_eq_true, bne_iff_ne, ne_eq, decide_eq_decide, decide_eq_true_eq]
  omega

/-- PV is the parity of the result in the logic operations and DAA. -/
theorem sz53p_or_half (res : Byte) (h : Bool) :
    sz53p res ||| maskIf h 0x10 = sz53 res ||| maskIf h 0x10 ||| maskIf (parity res) 0x04 := by
  rw [sz53p, BitVec.or_assoc, BitVec.or_assoc, BitVec.or_comm (maskIf _ _)]

/-- AND, XOR and OR share their flags but for H (rules R242 to R244). -/
theorem logic_flags (res : Byte) (h : Bool) :
    sz53p res ||| maskIf h 0x10 = packFlags res h (parity res) false false := by
  rw [sz53p_or_half, packFlags, or_maskIf_false, or_maskIf_false]

theorem inc8_eq (v f : Byte) :
    inc8 v f = (v + 1, packFlags (v + 1) (nibble v == 0xF) (v + 1 == 0x80) false (flagC f)) := by
  rw [packFlags, maskIf_flagC, or_maskIf_false]; rfl

theorem dec8_eq (v f : Byte) :
    dec8 v f = (v - 1, packFlags (v - 1) (nibble v == 0) (v - 1 == 0x7F) true (flagC f)) := by
  rw [packFlags, maskIf_flagC]; rfl

/-- CP takes six flags from the difference. -/
theorem getLsbD_cp8 (a b : Byte) {k : Nat} (hk : k ∈ [0, 1, 2, 4, 6, 7] := by decide) :
    (cp8 a b).getLsbD k = (sub8 a b false).2.getLsbD k := by
  rw [cp8, BitVec.getLsbD_or, BitVec.getLsbD_and, BitVec.getLsbD_and]
  fin_cases hk <;> simp

/-- CP takes Y and X from its operand. -/
theorem getLsbD_cp8_yx (a b : Byte) {k : Nat} (hk : k ∈ [3, 5] := by decide) : (cp8 a b).getLsbD k = b.getLsbD k := by
  rw [cp8, BitVec.getLsbD_or, BitVec.getLsbD_and, BitVec.getLsbD_and]
  fin_cases hk <;> simp

/-- INC is the addition of 1, but for C. -/
theorem inc8_eq_add8 (v f : Byte) :
    inc8 v f = ((add8 v 1 false).1, ((add8 v 1 false).2 &&& 0xFE) ||| (f &&& 0x01)) := by
  have hhalf : (nibble v == 0xF) = decide (nibble v + nibble 1 + false.toNat > 0xF) := by revert v; decide
  have hover : (v + 1 == 0x80) = (v.getLsbD 7 == (1 : Byte).getLsbD 7 && (v + 1).getLsbD 7 != v.getLsbD 7) := by
    revert v; decide
  rw [add8_snd, packFlags_replace_carry, add8_fst, inc8_eq, hhalf, hover]

/-- DEC is the subtraction of 1, but for C. -/
theorem dec8_eq_sub8 (v f : Byte) :
    dec8 v f = ((sub8 v 1 false).1, ((sub8 v 1 false).2 &&& 0xFE) ||| (f &&& 0x01)) := by
  have hhalf : (nibble v == 0) = decide ((nibble v : Int) - nibble 1 - false.toNat < 0) := by revert v; decide
  have hover : (v - 1 == 0x7F) = (v.getLsbD 7 != (1 : Byte).getLsbD 7 && (v - 1).getLsbD 7 != v.getLsbD 7) := by
    revert v; decide
  rw [sub8_snd, packFlags_replace_carry, sub8_fst, dec8_eq, hhalf, hover]

end Sys2Proof.Machine
end

section
/-! PROOFS. The statements about the flag functions. -/

open Sys2Proof Sys2Proof.Machine

/-- Settles O21: the flags are packed by `add8_snd` and `sub8_snd`; PV is the signed overflow. -/
theorem additionAndSubtractionFlags : Obligations.AdditionAndSubtractionFlags := by
  unfold Obligations.AdditionAndSubtractionFlags
  intro a b c
  have hborrow : decide ((nibble a : Int) - nibble b - c.toNat < 0) = decide (a.toNat % 16 < b.toNat % 16 + c.toNat) :=
    decide_eq_decide.mpr (by unfold nibble; omega)
  have hcarry : decide ((a.toNat : Int) - b.toNat - c.toNat < 0) = decide (a.toNat < b.toNat + c.toNat) :=
    decide_eq_decide.mpr (by omega)
  rw [add8_snd, sub8_snd, add8_overflow, sub8_overflow, hborrow, hcarry]
  exact ⟨⟨add8_fst_toNat a b c, by simp [nibble]⟩, sub8_fst_toNat a b c, by simp⟩

/-- Settles O22: the three share their flags but for H (`logic_flags`). -/
theorem logicFlags : Obligations.LogicFlags := by
  unfold Obligations.LogicFlags
  intro a b res f half hmem
  have hf : f = packFlags res half (parity res) false false := by
    rw [← logic_flags]
    simp only [List.mem_cons, List.not_mem_nil, or_false, Prod.mk.injEq] at hmem
    obtain ⟨rfl, rfl, rfl⟩ | ⟨rfl, rfl, rfl⟩ | ⟨rfl, rfl, rfl⟩ := hmem
    · rfl
    · exact (or_maskIf_false _ _).symm
    · exact (or_maskIf_false _ _).symm
  subst hf
  simp [and8, xor8, or8, parity_eq_countP]

/-- Settles O23: the mask 0xD7 lets all flags of the difference through but Y and X. -/
theorem compareFlags : Obligations.CompareFlags := by
  unfold Obligations.CompareFlags
  intro a b
  have hzero : ((sub8 a b false).1 == 0) = decide (a = b) := by
    rw [sub8_fst, Bool.eq_iff_iff, beq_iff_eq, decide_eq_true_eq]
    exact sub_eq_zero
  obtain ⟨-, -, -, hz, -, -, -, -, hn, hc⟩ := additionAndSubtractionFlags a b false
  exact ⟨getLsbD_cp8 a b, (getLsbD_cp8 a b).trans (hz.trans hzero), getLsbD_cp8 a b, getLsbD_cp8 a b,
    (getLsbD_cp8 a b).trans hn, (getLsbD_cp8 a b).trans hc, getLsbD_cp8_yx a b, getLsbD_cp8_yx a b⟩

/-- Settles O24: the flags are packed by `inc8_eq` and `dec8_eq`, and H is the low nibble read as a byte. -/
theorem incrementAndDecrementFlags : Obligations.IncrementAndDecrementFlags := by
  unfold Obligations.IncrementAndDecrementFlags
  intro v f
  refine ⟨?_, ?_, inc8_eq_add8 v f, dec8_eq_sub8 v f⟩
  · rw [inc8_eq, ← nibble_beq v 0x0F]
    simp
  · rw [dec8_eq, ← nibble_beq v 0]
    simp

end

section
/-! PROOFS. DAA: what it adds or subtracts, and its meaning on sums and differences of decimal bytes. -/

namespace Sys2Proof.Machine

/-! ### The byte and the flags of DAA (rule R290) -/

/-- The correction of the low digit. -/
def daaLow (a f : Byte) : Byte := if flagH f ∨ a.toNat % 16 > 9 then 0x06 else 0

/-- The correction of the high digit. -/
def daaHigh (a f : Byte) : Byte := if flagC f ∨ a.toNat > 0x99 then 0x60 else 0

theorem maskIf_or_decide (b : Bool) (p : Prop) [Decidable p] (m : Byte) :
    maskIf (b || decide p) m = if b ∨ p then m else 0 := by simp [maskIf]

theorem daa8_fst (a f : Byte) :
    (daa8 a f).1 = if flagN f then a - (daaLow a f + daaHigh a f) else a + (daaLow a f + daaHigh a f) := by
  have hsum : ∀ p q : Bool, maskIf p 0x06 ||| maskIf q 0x60 = maskIf p 0x06 + maskIf q 0x60 := by decide
  rw [daa8, hsum, maskIf_or_decide, maskIf_or_decide]
  rfl

theorem daa8_snd (a f : Byte) :
    (daa8 a f).2 = packFlags (daa8 a f).1
      (if flagN f then flagH f && decide (nibble a < 6) else decide (nibble a > 9)) (parity (daa8 a f).1) (flagN f)
      (flagC f || decide (a.toNat > 0x99)) := by
  rw [packFlags, ← sz53p_or_half]
  rfl

theorem flagC_daa8 (a f : Byte) : flagC (daa8 a f).2 = decide (flagC f ∨ a.toNat > 0x99) := by
  rw [daa8_snd, flagC_packFlags, Bool.decide_or, Bool.decide_coe]

/-! ### Decimal bytes -/

/-- The two decimal digits of a number below 100 in the nibbles of a byte. -/
def decimalByte (n : Nat) : Byte := BitVec.ofNat 8 (16 * (n / 10) + n % 10)

/-- Six more for each ten than the number itself. -/
theorem decimalByte_toNat {n : Nat} (hn : n < 100) : (decimalByte n).toNat = n + 6 * (n / 10) := by
  rw [decimalByte, BitVec.toNat_ofNat]
  omega

theorem nibble_decimalByte {n : Nat} (hn : n < 100) : nibble (decimalByte n) = n % 10 := by
  rw [nibble, decimalByte_toNat hn]
  omega

/-- A number below 200 with its tens and hundreds carried, sixteen and 256 for ten and a hundred. -/
theorem decimalByte_mod_hundred {n : Nat} (hn : n < 200) :
    BitVec.ofNat 8 (n + 6 * (n / 10)) + (if n ≥ 100 then 0x60 else 0) = decimalByte (n % 100) := by
  refine BitVec.eq_of_toNat_eq ?_
  rw [BitVec.toNat_add, BitVec.toNat_ofNat, decimalByte_toNat (Nat.mod_lt _ (by omega))]
  split
  · rw [show n = n % 100 + 100 by omega]
    simp
    omega
  · simp
    omega

/-- A hundred lent and not taken back is a hundred more, modulo 256. -/
theorem sub_borrow (v : Byte) (p : Prop) [Decidable p] :
    v - 0xA0 - (if p then 0x60 else 0) = v + (if ¬p then 0x60 else 0) := by
  by_cases hp : p
  · rw [if_pos hp, if_neg (not_not.mpr hp)]
    bv_omega
  · rw [if_neg hp, if_pos hp]
    bv_omega

section
variable {x y : Nat} (hx : x < 100) (hy : y < 100) (c : Bool)
include hx hy

/-! ### The sum of two decimal bytes -/

/-- A carry of the low digits is the six that the sum of the bytes is short of. -/
theorem decimalByte_add :
    (decimalByte x).toNat + (decimalByte y).toNat + c.toNat + (if x % 10 + y % 10 + c.toNat > 9 then 6 else 0)
      = x + y + c.toNat + 6 * ((x + y + c.toNat) / 10) := by
  have hc := Bool.toNat_le c
  rw [decimalByte_toNat hx, decimalByte_toNat hy]
  split <;> omega

/-- With its low digit corrected, the sum of the bytes counts sixteen for each ten of the sum. -/
theorem add8_corrected :
    (add8 (decimalByte x) (decimalByte y) c).1 + (if x % 10 + y % 10 + c.toNat > 9 then 0x06 else 0)
      = BitVec.ofNat 8 (x + y + c.toNat + 6 * ((x + y + c.toNat) / 10)) := by
  refine BitVec.eq_of_toNat_eq ?_
  rw [BitVec.toNat_add, add8_fst_toNat, BitVec.toNat_ofNat, ← decimalByte_add hx hy c]
  split <;> simp

/-- The low digit is corrected where the sum of the low digits carries. -/
theorem daaLow_add8 (r : Byte × Byte) (hr : r = add8 (decimalByte x) (decimalByte y) c) :
    daaLow r.1 r.2 = if x % 10 + y % 10 + c.toNat > 9 then 0x06 else 0 := by
  have hc := Bool.toNat_le c
  rw [hr, daaLow]
  refine if_congr ?_ rfl rfl
  rw [add8_snd, flagH_packFlags, decide_eq_true_eq, nibble_decimalByte hx, nibble_decimalByte hy, add8_fst_toNat,
    decimalByte_toNat hx, decimalByte_toNat hy]
  omega

/-- The high digit is corrected where the sum carries. -/
theorem daaCarry_add8 (r : Byte × Byte) (hr : r = add8 (decimalByte x) (decimalByte y) c) :
    (flagC r.2 = true ∨ r.1.toNat > 0x99) ↔ x + y + c.toNat ≥ 100 := by
  have hc := Bool.toNat_le c
  have hsum := decimalByte_add hx hy c
  rw [hr, add8_snd, flagC_packFlags, decide_eq_true_eq, add8_fst_toNat]
  generalize (decimalByte x).toNat + (decimalByte y).toNat + c.toNat = s at hsum ⊢
  split at hsum <;> omega

theorem daa8_add8 (r : Byte × Byte) (hr : r = add8 (decimalByte x) (decimalByte y) c) :
    (daa8 r.1 r.2).1 = decimalByte ((x + y + c.toNat) % 100) ∧
      flagC (daa8 r.1 r.2).2 = decide (x + y + c.toNat ≥ 100) := by
  have hc := Bool.toNat_le c
  have hcarry := daaCarry_add8 hx hy c r hr
  have hn : flagN r.2 = false := by rw [hr, add8_snd, flagN_packFlags]
  refine ⟨?_, (flagC_daa8 ..).trans (decide_eq_decide.mpr hcarry)⟩
  rw [daa8_fst, hn, if_neg Bool.false_ne_true, daaLow_add8 hx hy c r hr, daaHigh, if_congr hcarry rfl rfl, hr,
    ← add_assoc, add8_corrected hx hy, decimalByte_mod_hundred (by omega)]

/-! ### The difference of two decimal bytes -/

/-- A borrow of the low digits is the six that the difference of the bytes is too large by. -/
theorem decimalByte_sub :
    ((decimalByte x).toNat : Int) - (decimalByte y).toNat - c.toNat - (if x % 10 < y % 10 + c.toNat then 6 else 0)
      = (100 + x - y - c.toNat : Nat) + 6 * ((100 + x - y - c.toNat) / 10 : Nat) - 160 := by
  have hc := Bool.toNat_le c
  rw [decimalByte_toNat hx, decimalByte_toNat hy]
  split <;> omega

/-- With its low digit corrected, the difference of the bytes counts sixteen for each ten, a hundred lent. -/
theorem sub8_corrected :
    (sub8 (decimalByte x) (decimalByte y) c).1 - (if x % 10 < y % 10 + c.toNat then 0x06 else 0)
      = BitVec.ofNat 8 (100 + x - y - c.toNat + 6 * ((100 + x - y - c.toNat) / 10)) - 0xA0 := by
  have hdiff := decimalByte_sub hx hy c
  have hres := sub8_fst_toNat (decimalByte x) (decimalByte y) c
  generalize (sub8 (decimalByte x) (decimalByte y) c).1 = res at hres ⊢
  generalize ((decimalByte x).toNat : Int) - (decimalByte y).toNat - c.toNat = s at hdiff hres
  generalize 100 + x - y - c.toNat = e at hdiff ⊢
  split at hdiff <;> simp [*] <;> bv_omega

/-- The low digit is corrected where the difference of the low digits borrows. -/
theorem daaLow_sub8 (r : Byte × Byte) (hr : r = sub8 (decimalByte x) (decimalByte y) c) :
    daaLow r.1 r.2 = if x % 10 < y % 10 + c.toNat then 0x06 else 0 := by
  have hc := Bool.toNat_le c
  have hres := sub8_fst_toNat (decimalByte x) (decimalByte y) c
  rw [decimalByte_toNat hx, decimalByte_toNat hy] at hres
  rw [hr, daaLow]
  refine if_congr ?_ rfl rfl
  rw [sub8_snd, flagH_packFlags, decide_eq_true_eq, nibble_decimalByte hx, nibble_decimalByte hy]
  omega

/-- The high digit is corrected where the difference borrows. -/
theorem daaCarry_sub8 (r : Byte × Byte) (hr : r = sub8 (decimalByte x) (decimalByte y) c) :
    (flagC r.2 = true ∨ r.1.toNat > 0x99) ↔ x < y + c.toNat := by
  have hc := Bool.toNat_le c
  have hdiff := decimalByte_sub hx hy c
  have hres := sub8_fst_toNat (decimalByte x) (decimalByte y) c
  have hle : ((decimalByte x).toNat : Int) - (decimalByte y).toNat - c.toNat ≤ 0x99 := by
    rw [decimalByte_toNat hx]
    omega
  rw [hr, sub8_snd, flagC_packFlags, decide_eq_true_eq]
  generalize ((decimalByte x).toNat : Int) - (decimalByte y).toNat - c.toNat = s at hdiff hres hle ⊢
  split at hdiff <;> omega

theorem daa8_sub8 (r : Byte × Byte) (hr : r = sub8 (decimalByte x) (decimalByte y) c) :
    (daa8 r.1 r.2).1 = decimalByte ((100 + x - y - c.toNat) % 100) ∧
      flagC (daa8 r.1 r.2).2 = decide (x < y + c.toNat) := by
  have hc := Bool.toNat_le c
  have hcarry := daaCarry_sub8 hx hy c r hr
  have hn : flagN r.2 = true := by rw [hr, sub8_snd, flagN_packFlags]
  have hborrow : ¬x < y + c.toNat ↔ 100 + x - y - c.toNat ≥ 100 := by omega
  refine ⟨?_, (flagC_daa8 ..).trans (decide_eq_decide.mpr hcarry)⟩
  rw [daa8_fst, hn, if_pos rfl, daaLow_sub8 hx hy c r hr, daaHigh, if_congr hcarry rfl rfl, hr, sub_add_eq_sub_sub,
    sub8_corrected hx hy, sub_borrow, if_congr hborrow rfl rfl, decimalByte_mod_hundred (by omega)]

end

end Sys2Proof.Machine

open Sys2Proof Sys2Proof.Machine

/-- Settles O25: `daa8_add8` and `daa8_sub8` for decimal bytes, `daa8_fst` and `daa8_snd` for every byte. -/
theorem decimalAdjustGivesTheDecimalResult : Obligations.DecimalAdjustGivesTheDecimalResult := by
  unfold Obligations.DecimalAdjustGivesTheDecimalResult
  constructor
  · intro x y c bcd hbcd
    obtain rfl : bcd = decimalByte := funext hbcd
    exact ⟨daa8_add8 x.isLt y.isLt c _ rfl, daa8_sub8 x.isLt y.isLt c _ rfl⟩
  · rintro a f low high res g rfl rfl hres rfl
    obtain rfl : res = (daa8 a f).1 := hres.trans (daa8_fst a f).symm
    rw [daa8_snd]
    exact ⟨rfl, flagS_packFlags .., flagZ_packFlags .., flagY_packFlags .., flagH_packFlags .., flagX_packFlags ..,
      (flagPV_packFlags ..).trans (parity_eq_countP _), flagN_packFlags .., flagC_packFlags ..⟩

end

section
/-! PROOFS. The operations on A and F behind their operand forms, and the byte increments and decrements. -/

namespace Sys2Proof.Machine

namespace Reaches

variable {s u : State} {c : Cpu} {i : Instr} {p : Byte × Byte}

/-- The end of a meaning that computes the pair (A, F) from the registers. -/
theorem runsAs_setAcc (h : Reaches s (cycles i s) c u) (rf : Cpu → Byte × Byte) (hrf : rf c = p)
    (hx : exec i s = endFlags (u.upd fun c => c.setAcc (rf c))) : RunsAs i s (Cpu.flagged p.2 { c with a := p.1 }) := by
  subst hrf
  exact (h.upd fun c => c.setAcc (rf c)).runsAs_endFlags (c := { c with a := (rf c).1 }) hx

end Reaches

variable {i : Instr} {s : State}

/-! ### The operand forms of the operations on A (rules R250 to R273) -/

/-- The operand is a register. -/
theorem runsAs_accOnR (op : Cpu → Byte → Byte × Byte) {r : Reg8} (hx : exec i s = accOnR op r s)
    (hcyc : cycles i s = [.m1 s.cpu.pc]) :
    RunsAs i s (Cpu.flagged (op (s.cpu.fetched 1 1) (s.cpu.getR r)).2
      { s.cpu.fetched 1 1 with a := (op (s.cpu.fetched 1 1) (s.cpu.getR r)).1 }) :=
  (hcyc ▸ Reaches.start s : Reaches s (cycles i s) _ _).runsAs_setAcc (fun c => op c (c.getR r))
    (by rw [Cpu.getR_of_fetched]) hx

/-- The operand is the byte behind the opcode. -/
theorem runsAs_accOnN (op : Cpu → Byte → Byte × Byte) {n : Byte} (hx : exec i s = accOnN op n s)
    (hcyc : cycles i s = [.m1 s.cpu.pc, .mr (s.cpu.pc + 1)]) :
    RunsAs i s (Cpu.flagged (op (s.cpu.fetched 1 2) n).2
      { s.cpu.fetched 1 2 with a := (op (s.cpu.fetched 1 2) n).1 }) :=
  (hcyc ▸ (Reaches.start s).mrPc : Reaches s (cycles i s) _ _).runsAs_setAcc (fun c => op c n) rfl hx

/-- The operand is the byte at HL. -/
theorem runsAs_accOnMhl (op : Cpu → Byte → Byte × Byte) (hx : exec i s = accOnMhl op s)
    (hcyc : cycles i s = [.m1 s.cpu.pc, .mr s.cpu.hl]) :
    RunsAs i s (Cpu.flagged (op (s.cpu.fetched 1 1) (s.byteAt s.cpu.hl)).2
      { s.cpu.fetched 1 1 with a := (op (s.cpu.fetched 1 1) (s.byteAt s.cpu.hl)).1 }) :=
  (hcyc ▸ (Reaches.start s).mr Cpu.hl : Reaches s (cycles i s) _ _).runsAs_setAcc
    (fun c => op c ((m1 s).byteAt (m1 s).cpu.hl)) (by rw [m1_byteAt, (Reaches.start s).cpu]; rfl) hx

/-! ### INC and DEC (rules R280 to R283): `op` is given the byte and F -/

/-- The form that INC and DEC of a register share. -/
def changeR (op : Byte → Byte → Byte × Byte) (r : Reg8) (s : State) : Result :=
  endFlags ((m1 s).upd fun c => { c.setR r (op (c.getR r) c.f).1 with f := (op (c.getR r) c.f).2 })

/-- The form that INC and DEC of the byte at HL share. -/
def changeMhl (op : Byte → Byte → Byte × Byte) (s : State) : Result :=
  let s := m1 s
  let rf := op (s.byteAt s.cpu.hl) s.cpu.f
  endFlags ((modifyByte s.cpu.hl rf.1 s).upd fun c => { c with f := rf.2 })

theorem runsAs_changeR (op : Byte → Byte → Byte × Byte) {r : Reg8} (hx : exec i s = changeR op r s)
    (hcyc : cycles i s = [.m1 s.cpu.pc]) :
    RunsAs i s (Cpu.flagged (op (s.cpu.getR r) s.cpu.f).2
      ((s.cpu.fetched 1 1).setR r (op (s.cpu.getR r) s.cpu.f).1)) := by
  have h := (Reaches.start s).upd fun c => { c.setR r (op (c.getR r) c.f).1 with f := (op (c.getR r) c.f).2 }
  rw [Cpu.getR_of_fetched] at h
  exact Reaches.runsAs_endFlags (hcyc ▸ h) hx

theorem runsAs_changeMhl (op : Byte → Byte → Byte × Byte) (hx : exec i s = changeMhl op s)
    (hcyc : cycles i s = [.m1 s.cpu.pc] ++ modifyActs s.cpu.hl (op (s.byteAt s.cpu.hl) s.cpu.f).1) :
    RunsAs i s (Cpu.flagged (op (s.byteAt s.cpu.hl) s.cpu.f).2 (s.cpu.fetched 1 1)) := by
  have one := Reaches.start s
  have h := (one.modifyByte Cpu.hl fun c v => (op v c.f).1).upd fun c =>
    { c with f := (op (s.byteAt s.cpu.hl) s.cpu.f).2 }
  refine Reaches.runsAs_endFlags (hcyc ▸ h) (hx.trans ?_)
  rw [changeMhl, m1_byteAt, one.cpu]
  rfl

/-! ### The results of CPL and NEG, and the half carry of CCF (rules R291, R292, R299) -/

theorem cpl8_eq (a f : Byte) : cpl8 a f = (~~~a, (f &&& 0xC5) ||| 0x12 ||| (~~~a &&& 0x28)) := by
  rw [cpl8, show a ^^^ 0xFF = ~~~a from BitVec.xor_allOnes]

theorem sub8_zero_fst (a : Byte) : (sub8 0 a false).1 = -a := (sub8_fst 0 a).trans (zero_sub a)

theorem ccfFlags_eq (rule : XyRule) (a f q : Byte) :
    ccfFlags rule a f q = (f &&& 0xC4) ||| xyQ rule a f q ||| (if f.getLsbD 0 then 0x10 else 0x01) := by
  rw [ccfFlags, BitVec.or_assoc _ (maskIf _ _), flagC]
  cases f.getLsbD 0 <;> rfl

end Sys2Proof.Machine

open Sys2Proof Sys2Proof.Machine

/-- Settles O32: `runsAs_accOnR` for each of the eight operations on A. -/
theorem aluOperationsOnRegisters : Obligations.AluOperationsOnRegisters := by
  unfold Obligations.AluOperationsOnRegisters
  rintro s r a v f cy c rfl rfl rfl rfl rfl
  exact ⟨runsAs_accOnR accAdd rfl rfl, runsAs_accOnR accAdc rfl rfl, runsAs_accOnR accSub rfl rfl,
    runsAs_accOnR accSbc rfl rfl, runsAs_accOnR accAnd rfl rfl, runsAs_accOnR accXor rfl rfl,
    runsAs_accOnR accOr rfl rfl, runsAs_accOnR accCp rfl rfl⟩

/-- Settles O33: `runsAs_accOnN` for each of the eight operations on A. -/
theorem aluOperationsOnImmediates : Obligations.AluOperationsOnImmediates := by
  unfold Obligations.AluOperationsOnImmediates
  rintro s v a f cy c rfl rfl rfl rfl
  exact ⟨runsAs_accOnN accAdd rfl rfl, runsAs_accOnN accAdc rfl rfl, runsAs_accOnN accSub rfl rfl,
    runsAs_accOnN accSbc rfl rfl, runsAs_accOnN accAnd rfl rfl, runsAs_accOnN accXor rfl rfl,
    runsAs_accOnN accOr rfl rfl, runsAs_accOnN accCp rfl rfl⟩

/-- Settles O34: `runsAs_accOnMhl` for each of the eight operations on A. -/
theorem aluOperationsOnMemoryAtHl : Obligations.AluOperationsOnMemoryAtHl := by
  unfold Obligations.AluOperationsOnMemoryAtHl
  rintro s a v f cy c rfl rfl rfl rfl rfl
  exact ⟨runsAs_accOnMhl accAdd rfl rfl, runsAs_accOnMhl accAdc rfl rfl, runsAs_accOnMhl accSub rfl rfl,
    runsAs_accOnMhl accSbc rfl rfl, runsAs_accOnMhl accAnd rfl rfl, runsAs_accOnMhl accXor rfl rfl,
    runsAs_accOnMhl accOr rfl rfl, runsAs_accOnMhl accCp rfl rfl⟩

/-- Settles O37: one rule for a register and one for the byte at HL, each taken with `inc8` and with `dec8`. -/
theorem incrementsAndDecrementsOfBytes : Obligations.IncrementsAndDecrementsOfBytes := by
  unfold Obligations.IncrementsAndDecrementsOfBytes
  rintro s r v m f rfl rfl rfl
  exact ⟨runsAs_changeR inc8 rfl rfl, runsAs_changeR dec8 rfl rfl, rfl, runsAs_changeMhl inc8 rfl rfl, rfl,
    runsAs_changeMhl dec8 rfl rfl⟩

/-- Settles O38: each runs behind its opcode fetches; `SCF_CCF_XY` stays the model's open constant throughout. -/
theorem accumulatorAdjustments : Obligations.AccumulatorAdjustments := by
  unfold Obligations.AccumulatorAdjustments
  rintro s y a f xy rfl rfl hxy
  obtain rfl : xy = xyQ Config.scfCcfXy s.cpu.a s.cpu.f s.cpu.q := hxy
  have one := Reaches.start s
  refine ⟨?_, ?_, ?_, ?_, ?_⟩
  · exact one.runsAs_setAcc (fun c => daa8 c.a c.f) rfl rfl
  · exact one.runsAs_setAcc (p := (_, _)) (fun c => cpl8 c.a c.f) (cpl8_eq _ _) rfl
  · rw [← sub8_zero_fst]
    exact one.m1.runsAs_setAcc (fun c => sub8 0 c.a false) rfl rfl
  · exact (one.upd fun c => { c with f := scfFlags Config.scfCcfXy c.a c.f c.q }).runsAs_endFlags rfl
  · rw [← ccfFlags_eq]
    exact (one.upd fun c => { c with f := ccfFlags Config.scfCcfXy c.a c.f c.q }).runsAs_endFlags rfl

end

section
/-! PROOFS. The 16-bit sums and the difference (43_alu16.md): their results and overflow as numbers, their flags byte put
together by `packFlags16` and read back from it, and what the five operations on pairs run as. -/

namespace Sys2Proof.Machine

/-! ### The flags byte of a 16-bit result -/

/-- Y and X of `res`, with the six other flags given. -/
def packFlags16 (res : Word) (s z h pv n c : Bool) : Byte :=
  maskIf s 0x80 ||| maskIf z 0x40 ||| xy16 res ||| maskIf h 0x10 ||| maskIf pv 0x04 ||| maskIf n 0x02 |||
    maskIf c 0x01

theorem getLsbD_packFlags16 (res : Word) (s z h pv n c : Bool) (k : Nat) :
    (packFlags16 res s z h pv n c).getLsbD k =
      (s && (0x80 : Byte).getLsbD k || z && (0x40 : Byte).getLsbD k ||
        (hiByte res).getLsbD k && (0x28 : Byte).getLsbD k || h && (0x10 : Byte).getLsbD k ||
        pv && (0x04 : Byte).getLsbD k || n && (0x02 : Byte).getLsbD k || c && (0x01 : Byte).getLsbD k) := by
  simp only [packFlags16, xy16, BitVec.getLsbD_or, BitVec.getLsbD_and, getLsbD_maskIf]

section
variable (res : Word) (s z h pv n c : Bool)

@[simp] theorem flagS_packFlags16 : flagS (packFlags16 res s z h pv n c) = s := by
  rw [flagS, getLsbD_packFlags16]; simp
@[simp] theorem flagZ_packFlags16 : flagZ (packFlags16 res s z h pv n c) = z := by
  rw [flagZ, getLsbD_packFlags16]; simp
@[simp] theorem flagY_packFlags16 : flagY (packFlags16 res s z h pv n c) = res.getLsbD 13 := by
  rw [flagY, getLsbD_packFlags16]; simp [hiByte]
@[simp] theorem flagH_packFlags16 : flagH (packFlags16 res s z h pv n c) = h := by
  rw [flagH, getLsbD_packFlags16]; simp
@[simp] theorem flagX_packFlags16 : flagX (packFlags16 res s z h pv n c) = res.getLsbD 11 := by
  rw [flagX, getLsbD_packFlags16]; simp [hiByte]
@[simp] theorem flagPV_packFlags16 : flagPV (packFlags16 res s z h pv n c) = pv := by
  rw [flagPV, getLsbD_packFlags16]; simp
@[simp] theorem flagN_packFlags16 : flagN (packFlags16 res s z h pv n c) = n := by
  rw [flagN, getLsbD_packFlags16]; simp
@[simp] theorem flagC_packFlags16 : flagC (packFlags16 res s z h pv n c) = c := by
  rw [flagC, getLsbD_packFlags16]; simp

end

/-- The mask of `ADD` keeps S, Z and PV. -/
theorem and_C4_eq_flags (f : Byte) :
    f &&& 0xC4 = maskIf (flagS f) 0x80 ||| maskIf (flagZ f) 0x40 ||| maskIf (flagPV f) 0x04 := by
  revert f; decide

/-! ### Words as signed numbers -/

theorem getLsbD_fifteen (w : Word) : w.getLsbD 15 = decide (32768 ≤ w.toNat) :=
  (BitVec.msb_eq_getLsbD_last w).symm.trans (BitVec.msb_eq_decide w)

theorem word_toInt_cases (w : Word) :
    32768 ≤ w.toNat ∧ w.toInt = w.toNat - 65536 ∨ w.toNat < 32768 ∧ w.toInt = w.toNat := by
  rw [BitVec.toInt_eq_toNat_cond]
  split <;> omega

/-! ### The results and flags of the sums and the difference (rules R300 to R302) -/

theorem add16_snd (a b : Word) (f : Byte) :
    (add16 a b f).2 = packFlags16 (add16 a b f).1 (flagS f) (flagZ f)
      (decide (a.toNat % 4096 + b.toNat % 4096 > 4095)) (flagPV f) false (decide (a.toNat + b.toNat > 65535)) := by
  rw [packFlags16, or_maskIf_false, add16, and_C4_eq_flags]
  ac_rfl

theorem adc16_fst_toNat (a b : Word) (c : Bool) :
    (adc16 a b c).1.toNat = (a.toNat + b.toNat + c.toNat) % 65536 := by
  simp [adc16]

theorem adc16_snd (a b : Word) (c : Bool) :
    (adc16 a b c).2 = packFlags16 (adc16 a b c).1 ((adc16 a b c).1.getLsbD 15) ((adc16 a b c).1 == 0)
      (decide (a.toNat % 4096 + b.toNat % 4096 + c.toNat > 4095))
      (a.getLsbD 15 == b.getLsbD 15 && (adc16 a b c).1.getLsbD 15 != a.getLsbD 15) false
      (decide (a.toNat + b.toNat + c.toNat > 65535)) := by
  rw [packFlags16, or_maskIf_false]; rfl

theorem sbc16_fst_toNat (a b : Word) (c : Bool) :
    ((sbc16 a b c).1.toNat : Int) = ((a.toNat : Int) - b.toNat - c.toNat) % 65536 := by
  have h : 0 ≤ ((a.toNat : Int) - b.toNat - c.toNat) % 65536 := by omega
  rw [sbc16, BitVec.toNat_ofInt]
  exact Int.toNat_of_nonneg h

/-- A borrow is a difference below 0. -/
theorem decide_sub_sub_neg (x y z : Nat) : decide ((x : Int) - y - z < 0) = decide (x < y + z) :=
  decide_eq_decide.mpr (by omega)

theorem sbc16_snd (a b : Word) (c : Bool) :
    (sbc16 a b c).2 = packFlags16 (sbc16 a b c).1 ((sbc16 a b c).1.getLsbD 15) ((sbc16 a b c).1 == 0)
      (decide (a.toNat % 4096 < b.toNat % 4096 + c.toNat))
      (a.getLsbD 15 != b.getLsbD 15 && (sbc16 a b c).1.getLsbD 15 != a.getLsbD 15) true
      (decide (a.toNat < b.toNat + c.toNat)) := by
  rw [← decide_sub_sub_neg, ← decide_sub_sub_neg]; rfl

/-- The sum of two signed words leaves the signed range where they have one sign and the result the other. -/
theorem adc16_overflow (a b : Word) (c : Bool) :
    (a.getLsbD 15 == b.getLsbD 15 && (adc16 a b c).1.getLsbD 15 != a.getLsbD 15)
      = decide (a.toInt + b.toInt + c.toNat < -32768 ∨ a.toInt + b.toInt + c.toNat > 32767) := by
  have hres := adc16_fst_toNat a b c
  have hc := Bool.toNat_le c
  have ha := word_toInt_cases a
  have hb := word_toInt_cases b
  rw [getLsbD_fifteen, getLsbD_fifteen, getLsbD_fifteen, Bool.eq_iff_iff]
  simp only [Bool.and_eq_true, beq_iff_eq, bne_iff_ne, ne_eq, decide_eq_decide, decide_eq_true_eq]
  omega

/-- The difference of two signed words leaves the signed range where their signs differ and the result has not the
first one's. -/
theorem sbc16_overflow (a b : Word) (c : Bool) :
    (a.getLsbD 15 != b.getLsbD 15 && (sbc16 a b c).1.getLsbD 15 != a.getLsbD 15)
      = decide (a.toInt - b.toInt - c.toNat < -32768 ∨ a.toInt - b.toInt - c.toNat > 32767) := by
  have hres := sbc16_fst_toNat a b c
  have hc := Bool.toNat_le c
  have ha := word_toInt_cases a
  have hb := word_toInt_cases b
  rw [getLsbD_fifteen, getLsbD_fifteen, getLsbD_fifteen, Bool.eq_iff_iff]
  simp only [Bool.and_eq_true, bne_iff_ne, ne_eq, decide_eq_decide, decide_eq_true_eq]
  omega

/-! ### The operations on pairs, behind `k` opcode fetches -/

namespace Reaches

variable {s u : State} {i : Instr} {rr : Rp} {k n : Nat}

/-- The end of a meaning that computes HL and F from HL, a pair and F. -/
theorem runsAs_setSum (h : Reaches s (cycles i s) (s.cpu.fetched k n) u) (op : Word → Word → Byte → Word × Byte)
    (hx : exec i s = endFlags (u.upd fun c => c.setSum (op c.hl (c.getRp rr) c.f))) :
    RunsAs i s (Cpu.flagged (op s.cpu.hl (s.cpu.getRp rr) s.cpu.f).2
      { (s.cpu.fetched k n).setHl (op s.cpu.hl (s.cpu.getRp rr) s.cpu.f).1 with memptr := s.cpu.hl + 1 }) := by
  have h' := h.upd fun c => c.setSum (op c.hl (c.getRp rr) c.f)
  rw [Cpu.getRp_of_fetched] at h'
  exact h'.runsAs_endFlags hx

/-- The end of a meaning that changes one pair. -/
theorem runsAs_changeRp (h : Reaches s (cycles i s) (s.cpu.fetched k n) u) (g : Word → Word)
    (hx : exec i s = endPlain (u.upd fun c => c.setRp rr (g (c.getRp rr)))) :
    RunsAs i s ((s.cpu.fetched k n).setRp rr (g (s.cpu.getRp rr))).quiet := by
  have h' := h.upd fun c => c.setRp rr (g (c.getRp rr))
  rw [Cpu.getRp_of_fetched] at h'
  exact h'.runsAs_endPlain hx

end Reaches

end Sys2Proof.Machine

open Sys2Proof Sys2Proof.Machine

/-- Settles O39: the flags are packed by `add16_snd`, `adc16_snd` and `sbc16_snd`, PV is the signed overflow, and each
operation ends behind its opcode fetches and internal cycles by `runsAs_setSum` or `runsAs_changeRp`. -/
theorem sixteenBitArithmetic : Obligations.SixteenBitArithmetic := by
  unfold Obligations.SixteenBitArithmetic
  refine ⟨?_, ?_, ?_, ?_⟩
  · intro a b f g res h
    obtain ⟨rfl, rfl⟩ := Prod.ext_iff.mp h
    rw [add16_snd, add16_fst]
    exact ⟨BitVec.toNat_add a b, by simp⟩
  · intro a b c g res h
    obtain ⟨rfl, rfl⟩ := Prod.ext_iff.mp h
    rw [adc16_snd, adc16_overflow]
    exact ⟨adc16_fst_toNat a b c, by simp⟩
  · intro a b c g res h
    obtain ⟨rfl, rfl⟩ := Prod.ext_iff.mp h
    rw [sbc16_snd, sbc16_overflow]
    exact ⟨sbc16_fst_toNat a b c, by simp⟩
  · rintro s rr hl w f cy rfl rfl rfl rfl
    have one := Reaches.start s
    have two := one.m1
    refine ⟨?_, ?_, ?_, ?_, ?_⟩
    · rw [← add16_fst _ _ s.cpu.f]
      exact (one.icIR 7).runsAs_setSum add16 rfl
    · exact (two.icIR 7).runsAs_setSum (fun a b f => adc16 a b (flagC f)) rfl
    · exact (two.icIR 7).runsAs_setSum (fun a b f => sbc16 a b (flagC f)) rfl
    · exact (one.icIR 2).runsAs_changeRp (· + 1) rfl
    · exact (one.icIR 2).runsAs_changeRp (· - 1) rfl

end

section
/-! PROOFS. Rotates of A, of the byte at HL and of decimal digits, and the operations on single bits
(44_rotate_bit.md). -/

namespace Sys2Proof.Machine

variable {i : Instr} {s : State}

/-! ### Rotates and shifts (rules R320 to R323, R333 to R340) -/

/-- A rotate of A. -/
theorem runsAs_rotA (rot : Bool → Byte → Byte × Bool) {res out : Byte} (hx : exec i s = rotA rot s)
    (hcyc : cycles i s = [.m1 s.cpu.pc]) (hres : (rot (flagC s.cpu.f) s.cpu.a).1 = res)
    (hout : maskIf (rot (flagC s.cpu.f) s.cpu.a).2 0x01 = out) :
    RunsAs i s (Cpu.flagged ((s.cpu.f &&& 0xC4) ||| (res &&& 0x28) ||| out) { s.cpu.fetched 1 1 with a := res }) := by
  subst hres hout
  exact (hcyc ▸ Reaches.start s : Reaches s (cycles i s) _ _).runsAs_setAcc (p := (_, _))
    (fun c => ((rot (flagC c.f) c.a).1, rotAFlags (rot (flagC c.f) c.a) c.f)) rfl hx

/-- A rotate or shift of the byte at HL. -/
theorem runsAs_rotOnMhl (rot : Bool → Byte → Byte × Bool) {res out : Byte} (hx : exec i s = rotOnMhl rot s)
    (hcyc : cycles i s = [.m1 s.cpu.pc, .m1 (s.cpu.pc + 1)]
      ++ modifyActs s.cpu.hl (rot (flagC s.cpu.f) (s.byteAt s.cpu.hl)).1)
    (hres : (rot (flagC s.cpu.f) (s.byteAt s.cpu.hl)).1 = res)
    (hout : maskIf (rot (flagC s.cpu.f) (s.byteAt s.cpu.hl)).2 0x01 = out) :
    stores (cycles i s) = [(s.cpu.hl, res)] ∧ RunsAs i s (Cpu.flagged (sz53p res ||| out) (s.cpu.fetched 2 2)) := by
  subst hres hout
  have two := (Reaches.start s).m1
  have h := (two.modifyByte Cpu.hl fun c v => (rot (flagC c.f) v).1).upd fun c =>
    { c with f := rotFlags (rot (flagC s.cpu.f) (s.byteAt s.cpu.hl)) }
  refine ⟨by rw [hcyc]; rfl, Reaches.runsAs_endFlags (hcyc ▸ h) (hx.trans ?_)⟩
  rw [rotOnMhl, m1_byteAt, m1_byteAt, two.cpu]
  rfl

/-! ### Single bits (rules R341 to R349) -/

theorem bitFlags_eq (b : Fin 8) (v src f : Byte) :
    bitFlags b v src f = (f &&& 0x01) ||| 0x10 ||| (src &&& 0x28) |||
      (if v.getLsbD b then (if b = 7 then 0x80 else 0) else 0x44) := by
  have hseven : (b.val == 7) = decide (b = 7) := by revert b; decide
  rw [bitFlags, BitVec.or_assoc _ (maskIf _ _), hseven]
  cases v.getLsbD b <;> simp [maskIf]

theorem getLsbD_bitMask (b : Fin 8) (k : Nat) : (bitMask b).getLsbD k = decide (k = b) := by
  rw [bitMask, ← BitVec.twoPow_eq, BitVec.getLsbD_twoPow]
  simp [b.isLt, eq_comm]

/-- RES clears its bit and keeps the seven others. -/
theorem resBit_eq_of_getLsbD {b : Fin 8} {v res : Byte}
    (h : ∀ k, k < 8 → res.getLsbD k = if k = b then false else v.getLsbD k) :
    resBit b v = res := by
  refine BitVec.eq_of_getLsbD_eq fun k hk => ?_
  rw [h k hk, resBit, BitVec.getLsbD_and, BitVec.getLsbD_not, getLsbD_bitMask]
  by_cases hkb : k = b <;> simp [hkb, hk]

/-- SET sets its bit and keeps the seven others. -/
theorem setBit_eq_of_getLsbD {b : Fin 8} {v res : Byte}
    (h : ∀ k, k < 8 → res.getLsbD k = if k = b then true else v.getLsbD k) :
    setBit b v = res := by
  refine BitVec.eq_of_getLsbD_eq fun k hk => ?_
  rw [h k hk, setBit, BitVec.getLsbD_or, getLsbD_bitMask]
  by_cases hkb : k = b <;> simp [hkb]

theorem runsAs_bitR (b : Fin 8) (r : Reg8) :
    RunsAs (.bitR b r) s
      (Cpu.flagged (bitFlags b (s.cpu.getR r) (s.cpu.getR r) s.cpu.f) (s.cpu.fetched 2 2)) := by
  have h := (Reaches.start s).m1.upd fun c => { c with f := bitFlags b (c.getR r) (c.getR r) c.f }
  rw [Cpu.getR_of_fetched] at h
  exact h.runsAs_endFlags rfl

theorem runsAs_bitMhl (b : Fin 8) :
    RunsAs (.bitMhl b) s
      (Cpu.flagged (bitFlags b (s.byteAt s.cpu.hl) (hiByte s.cpu.memptr) s.cpu.f) (s.cpu.fetched 2 2)) := by
  have two := (Reaches.start s).m1
  have h := (two.mrIc Cpu.hl 1).upd fun c =>
    { c with f := bitFlags b (s.byteAt s.cpu.hl) (hiByte c.memptr) c.f }
  refine h.runsAs_endFlags ?_
  change execBitMhl b s = _
  rw [execBitMhl, m1_byteAt, m1_byteAt, two.cpu]
  rfl

/-- The form that RES and SET of a register share. -/
def changeBitR (op : Byte → Byte) (r : Reg8) (s : State) : Result :=
  endPlain ((m1 (m1 s)).upd fun c => c.setR r (op (c.getR r)))

/-- The form that RES and SET of the byte at HL share. -/
def changeBitMhl (op : Byte → Byte) (s : State) : Result :=
  let s := m1 (m1 s)
  endPlain (modifyByte s.cpu.hl (op (s.byteAt s.cpu.hl)) s)

theorem runsAs_changeBitR (op : Byte → Byte) {r : Reg8} {res : Byte} (hx : exec i s = changeBitR op r s)
    (hcyc : cycles i s = [.m1 s.cpu.pc, .m1 (s.cpu.pc + 1)]) (hres : op (s.cpu.getR r) = res) :
    RunsAs i s ((s.cpu.fetched 2 2).setR r res).quiet := by
  have h := (Reaches.start s).m1.upd fun c => c.setR r (op (c.getR r))
  rw [Cpu.getR_of_fetched, hres] at h
  exact Reaches.runsAs_endPlain (hcyc ▸ h) hx

theorem runsAs_changeBitMhl (op : Byte → Byte) {res : Byte} (hx : exec i s = changeBitMhl op s)
    (hcyc : cycles i s = [.m1 s.cpu.pc, .m1 (s.cpu.pc + 1)] ++ modifyActs s.cpu.hl (op (s.byteAt s.cpu.hl)))
    (hres : op (s.byteAt s.cpu.hl) = res) :
    stores (cycles i s) = [(s.cpu.hl, res)] ∧ RunsAs i s (s.cpu.fetched 2 2).quiet := by
  subst hres
  have h := (Reaches.start s).m1.modifyByte Cpu.hl fun _ => op
  exact ⟨by rw [hcyc]; rfl, Reaches.runsAs_endPlain (hcyc ▸ h) hx⟩

/-! ### Decimal digits (rules R350, R351) -/

section
variable (hi lo : BitVec 4)

theorem append_and_0F : (hi ++ lo : Byte) &&& 0x0F = (0#4 ++ lo : Byte) := by revert hi lo; decide
theorem append_and_F0 : (hi ++ lo : Byte) &&& 0xF0 = (hi ++ 0#4 : Byte) := by revert hi lo; decide
theorem append_shiftLeft_four : (hi ++ lo : Byte) <<< 4 = (lo ++ 0#4 : Byte) := by revert hi lo; decide
theorem append_ushiftRight_four : (hi ++ lo : Byte) >>> 4 = (0#4 ++ hi : Byte) := by revert hi lo; decide

end

/-- A high digit and a low digit put together. -/
theorem or_eq_append {x y : Byte} {hi lo : BitVec 4} (hx : x = hi ++ 0#4) (hy : y = 0#4 ++ lo) :
    x ||| y = hi ++ lo := by
  rw [hx, hy, BitVec.or_append, BitVec.or_zero, BitVec.zero_or]

theorem rldBytes_append (aHi aLo mHi mLo : BitVec 4) :
    rldBytes (aHi ++ aLo) (mHi ++ mLo) = (mLo ++ aLo, aHi ++ mHi) :=
  Prod.ext (or_eq_append (append_shiftLeft_four mHi mLo) (append_and_0F aHi aLo))
    (or_eq_append (append_and_F0 aHi aLo) (append_ushiftRight_four mHi mLo))

theorem rrdBytes_append (aHi aLo mHi mLo : BitVec 4) :
    rrdBytes (aHi ++ aLo) (mHi ++ mLo) = (aLo ++ mHi, aHi ++ mLo) :=
  Prod.ext (or_eq_append (append_shiftLeft_four aHi aLo) (append_ushiftRight_four mHi mLo))
    (or_eq_append (append_and_F0 aHi aLo) (append_and_0F mHi mLo))

/-- A rotate that leaves `m` in memory and `a` in A. -/
theorem runsAs_decimalRotate (rot : Byte → Byte → Byte × Byte) {m a : Byte} (hx : exec i s = decimalRotate rot s)
    (hcyc : cycles i s = [.m1 s.cpu.pc, .m1 (s.cpu.pc + 1)]
      ++ [.mr s.cpu.hl, .ic s.cpu.hl 4, .mw s.cpu.hl (rot s.cpu.a (s.byteAt s.cpu.hl)).1])
    (hrot : rot s.cpu.a (s.byteAt s.cpu.hl) = (m, a)) :
    stores (cycles i s) = [(s.cpu.hl, m)] ∧
      RunsAs i s (Cpu.flagged (szpKeepC a s.cpu.f) { s.cpu.fetched 2 2 with a := a, memptr := s.cpu.hl + 1 }) := by
  have two := (Reaches.start s).m1
  have h := (two.mrIcMw Cpu.hl 4 fun c v => (rot c.a v).1).upd fun c =>
    { c with a := a, f := szpKeepC a c.f, memptr := s.cpu.hl + 1 }
  have hread : rot (m1 (m1 s)).cpu.a ((m1 (m1 s)).byteAt (m1 (m1 s)).cpu.hl) = (m, a) := by
    rw [m1_byteAt, m1_byteAt, two.cpu]
    exact hrot
  refine ⟨by rw [hcyc, hrot]; rfl, Reaches.runsAs_endFlags (c := { s.cpu.fetched 2 2 with a := a, memptr := _ })
    (hcyc ▸ h) (hx.trans ?_)⟩
  rw [decimalRotate, hread, two.cpu]
  rfl

end Sys2Proof.Machine

open Sys2Proof Sys2Proof.Machine

/-- Settles O40: `runsAs_rotA` for each of the four, with its result and its bit shifted out. -/
theorem rotatesOfTheAccumulator : Obligations.RotatesOfTheAccumulator := by
  unfold Obligations.RotatesOfTheAccumulator
  rintro s a f cy c rfl rfl rfl rfl
  refine ⟨?_, ?_, ?_, ?_⟩ <;> rintro res rfl
  · exact runsAs_rotA (fun _ => rotRlc) rfl rfl (rotRlc_eq_rotateLeft _) (maskIf_bit7 _)
  · exact runsAs_rotA (fun _ => rotRrc) rfl rfl (rotRrc_eq_rotateRight _) (maskIf_bit0 _)
  · exact runsAs_rotA rotRl rfl rfl rfl (maskIf_bit7 _)
  · exact runsAs_rotA rotRr rfl rfl rfl (maskIf_bit0 _)

/-- Settles O42: `runsAs_rotOnMhl` for each of the eight, with its result and its bit shifted out. -/
theorem rotatesAndShiftsOfMemoryAtHl : Obligations.RotatesAndShiftsOfMemoryAtHl := by
  unfold Obligations.RotatesAndShiftsOfMemoryAtHl
  rintro s v cy c rfl rfl rfl
  refine ⟨?_, ?_, ?_, ?_, ?_, ?_, ?_, ?_⟩ <;> rintro res rfl
  · exact runsAs_rotOnMhl (fun _ => rotRlc) rfl rfl (rotRlc_eq_rotateLeft _) (maskIf_bit7 _)
  · exact runsAs_rotOnMhl (fun _ => rotRrc) rfl rfl (rotRrc_eq_rotateRight _) (maskIf_bit0 _)
  · exact runsAs_rotOnMhl rotRl rfl rfl rfl (maskIf_bit7 _)
  · exact runsAs_rotOnMhl rotRr rfl rfl rfl (maskIf_bit0 _)
  · exact runsAs_rotOnMhl (fun _ => rotSla) rfl rfl (rotSla_eq_double _) (maskIf_bit7 _)
  · exact runsAs_rotOnMhl (fun _ => rotSra) rfl rfl (rotSra_eq_sshiftRight _) (maskIf_bit0 _)
  · exact runsAs_rotOnMhl (fun _ => rotSll) rfl rfl (rotSll_eq_double_add_one _) (maskIf_bit7 _)
  · exact runsAs_rotOnMhl (fun _ => rotSrl) rfl rfl rfl (maskIf_bit0 _)

/-- Settles O44: BIT by `bitFlags_eq`; the byte that RES or SET writes is determined bit by bit
(`resBit_eq_of_getLsbD`, `setBit_eq_of_getLsbD`). -/
theorem bitOperationsOnRegistersAndMemory : Obligations.BitOperationsOnRegistersAndMemory := by
  unfold Obligations.BitOperationsOnRegistersAndMemory
  rintro s b r v m rfl rfl
  rw [← bitFlags_eq, ← bitFlags_eq]
  exact ⟨runsAs_bitR b r, runsAs_bitMhl b,
    fun _ h => runsAs_changeBitR (resBit b) rfl rfl (resBit_eq_of_getLsbD h),
    fun _ h => runsAs_changeBitR (setBit b) rfl rfl (setBit_eq_of_getLsbD h),
    fun _ h => runsAs_changeBitMhl (resBit b) rfl rfl (resBit_eq_of_getLsbD h),
    fun _ h => runsAs_changeBitMhl (setBit b) rfl rfl (setBit_eq_of_getLsbD h)⟩

/-- Settles O46: `runsAs_decimalRotate`, with the digits as `rldBytes` and `rrdBytes` move them. -/
theorem decimalRotatesMoveDigits : Obligations.DecimalRotatesMoveDigits := by
  unfold Obligations.DecimalRotatesMoveDigits
  intro s aHi aLo mHi mLo hA hM
  obtain ⟨hrldStores, hrld⟩ := runsAs_decimalRotate (i := .rld) (s := s) rldBytes rfl rfl
    (by rw [hA, hM, rldBytes_append])
  obtain ⟨hrrdStores, hrrd⟩ := runsAs_decimalRotate (i := .rrd) (s := s) rrdBytes rfl rfl
    (by rw [hA, hM, rrdBytes_append])
  exact ⟨hrldStores, hrld, hrrdStores, hrrd⟩

end

section
/-! PROOFS. Jumps, calls, returns and restarts (45_control.md). -/

namespace Sys2Proof.Machine

/-- The target of a relative jump as rule R139 says it, and as the machine computes it behind the two bytes. -/
theorem relativeTarget_eq (c : Cpu) (e : Byte) :
    BitVec.ofInt 16 (c.pc.toNat + 2 + e.toInt) = (c.fetched 1 2).pc + sext8 e := by
  rw [add_right_comm, BitVec.ofInt_add, indexAddr_eq]
  exact add_right_comm _ _ _

/-- The target of RST is the word of that value. -/
theorem eq_rstTarget {y : Fin 8} {p : Word} (hp : p.toNat = 8 * y.val) : p = rstTarget y := by
  rw [rstTarget, ← hp, BitVec.ofNat_toNat, BitVec.setWidth_eq]

namespace Reaches

variable {s u v : State} {acts xs : List Act} {c d : Cpu} {i : Instr}

/-- The end of an instruction that branches on `p`: `v` behind the primitives `xs` more where it holds, `u`
otherwise. -/
theorem runsAs_taken {p : Prop} [Decidable p] {b : Bool} (hno : Reaches s acts d u)
    (hyes : Reaches s (acts ++ xs) c v) (hp : p ↔ b = true) (hx : exec i s = endPlain (if p then v else u))
    (hcyc : cycles i s = acts ++ takenActs b xs) : RunsAs i s (if b then c.quiet else d.quiet) := by
  have h := (hcyc ▸ hno.taken hyes hp : Reaches s (cycles i s) _ _).runsAs_endPlain hx
  simp only [hp] at h
  rwa [apply_ite Cpu.quiet] at h

/-- RET: the word on top of the stack popped into PC and MEMPTR. -/
theorem popPc (h : Reaches s acts c u) (hs : stores acts = [] := by rfl) :
    Reaches s (acts ++ popActs c) { c with sp := c.sp + 2, pc := s.wordAt c.sp, memptr := s.wordAt c.sp }
      (Machine.returnFromCall u) :=
  h.popWord (fun w k => { k with pc := w, memptr := w }) hs

end Reaches

variable {s : State}

theorem runsAs_jrCc (cc : JrCond) (e : Byte) :
    RunsAs (.jrCc cc e) s
      (if jrCondHolds cc s.cpu.f then
        { s.cpu.fetched 1 2 with
          pc := (s.cpu.fetched 1 2).pc + sext8 e, memptr := (s.cpu.fetched 1 2).pc + sext8 e }.quiet
      else (s.cpu.fetched 1 2).quiet) := by
  have imm8 := (Reaches.start s).mrPc
  have jump := imm8.jumpRelative e (s.cpu.pc_fetched_succ 1 1)
  exact imm8.runsAs_taken jump (by rw [imm8.cpu]; rfl) rfl rfl

theorem runsAs_djnz (e : Byte) :
    RunsAs (.djnz e) s
      (if s.cpu.b = 1 then { s.cpu.fetched 1 2 with b := 0 }.quiet
      else { s.cpu.fetched 1 2 with
        b := s.cpu.b - 1, pc := (s.cpu.fetched 1 2).pc + sext8 e
        memptr := (s.cpu.fetched 1 2).pc + sext8 e }.quiet) := by
  have dec := ((Reaches.start s).icIR 1).mrPc.upd fun c => { c with b := c.b - 1 }
  have jump := dec.jumpRelative e (s.cpu.pc_fetched_succ 1 1)
  have h := dec.runsAs_taken (i := .djnz e) jump (by rw [dec.cpu, bne_iff_ne]; rfl) rfl rfl
  by_cases hb : s.cpu.b = 1
  · have hzero : s.cpu.b - 1 = 0 := sub_eq_zero.mpr hb
    rw [if_neg fun hne => bne_iff_ne.mp hne hzero] at h
    rwa [if_pos hb, ← hzero]
  · rw [if_pos (bne_iff_ne.mpr (sub_ne_zero.mpr hb))] at h
    rwa [if_neg hb]

theorem runsAs_callCc (cc : Cond) (nn : Word) :
    RunsAs (.callCc cc nn) s
      (if condHolds cc s.cpu.f then { s.cpu.fetched 1 3 with sp := s.cpu.sp - 2, pc := nn, memptr := nn }.quiet
      else { s.cpu.fetched 1 3 with memptr := nn }.quiet) := by
  have imm16 := (Reaches.start s).mrPc.mrPc
  have call := imm16.callTo nn (s.cpu.pc_fetched_succ 1 2)
  exact (imm16.upd fun c => { c with memptr := nn }).runsAs_taken call (by rw [imm16.cpu]; rfl) rfl rfl

/-- Rule R367: CALL cc pushes what CALL pushes, only where it is taken. -/
theorem stores_cycles_callCc (cc : Cond) (nn : Word) :
    stores (cycles (.callCc cc nn) s) = if condHolds cc s.cpu.f then stores (cycles (.call nn) s) else [] := by
  change stores (_ ++ takenActs (condHolds cc s.cpu.f) _) = _
  cases condHolds cc s.cpu.f <;> rfl

theorem runsAs_retCc (cc : Cond) :
    RunsAs (.retCc cc) s
      (if condHolds cc s.cpu.f then
        { s.cpu.fetched 1 1 with
          sp := s.cpu.sp + 2, pc := s.wordAt s.cpu.sp, memptr := s.wordAt s.cpu.sp }.quiet
      else (s.cpu.fetched 1 1).quiet) := by
  have wait := (Reaches.start s).icIR 1
  exact wait.runsAs_taken wait.popPc (by rw [wait.cpu]; rfl) rfl rfl

end Sys2Proof.Machine

open Sys2Proof Sys2Proof.Machine

/-- Settles O47: a target is `relativeTarget_eq`, and a conditional jump a branch behind its fetch (`runsAs_taken`). -/
theorem jumpsGoToTheirTargets : Obligations.JumpsGoToTheirTargets := by
  unfold Obligations.JumpsGoToTheirTargets
  refine ⟨fun f => ⟨rfl, rfl⟩, ?_⟩
  intro s cc jc nn target e x htarget
  obtain rfl := htarget.trans (relativeTarget_eq s.cpu e)
  have one := Reaches.start s
  have imm16 := one.mrPc.mrPc
  refine ⟨?_, ?_, ?_, runsAs_jrCc jc e, runsAs_djnz e, ?_, ?_⟩
  · exact (imm16.upd fun c => { c with pc := nn, memptr := nn }).runsAs_endPlain rfl
  · exact (imm16.upd fun c => { c with pc := if condHolds cc c.f then nn else c.pc, memptr := nn }).runsAs_endPlain rfl
  · exact (one.mrPc.jumpRelative e (s.cpu.pc_fetched_succ 1 1)).runsAs_endPlain rfl
  · exact (one.upd fun c => { c with pc := c.hl }).runsAs_endPlain rfl
  · exact (one.m1.updXy x fun w c => { c with pc := w }).runsAs_endPlain rfl

/-- Settles O48: a call pushes behind its fetch, a return is `popPc`, and the conditional forms branch between these and
their fetch alone. -/
theorem callsPushAndReturnsPopTheReturnAddress : Obligations.CallsPushAndReturnsPopTheReturnAddress := by
  unfold Obligations.CallsPushAndReturnsPopTheReturnAddress
  rintro s cc nn _ y rfl
  have one := Reaches.start s
  have two := one.m1
  have hcall := runsAs_callCc (s := s) cc nn
  have hret := runsAs_retCc (s := s) cc
  refine ⟨⟨rfl, ?_⟩, fun hcc => ?_, fun hcc => ?_, ?_, fun hcc => ?_, fun hcc => ?_, ?_, ?_, rfl,
    fun p hp => ?_⟩
  -- `execCall` is named so that unification stops there and does not run the push.
  · exact (one.mrPc.mrPc.callTo nn (s.cpu.pc_fetched_succ 1 2)).runsAs_endPlain (show execCall nn s = _ from rfl)
  · rw [if_pos hcc] at hcall
    exact ⟨(stores_cycles_callCc cc nn).trans (if_pos hcc), hcall⟩
  · rw [if_neg (Bool.eq_false_iff.mp hcc)] at hcall
    exact ⟨(stores_cycles_callCc cc nn).trans (if_neg (Bool.eq_false_iff.mp hcc)), hcall⟩
  · exact one.popPc.runsAs_endPlain rfl
  · rwa [if_pos hcc] at hret
  · rwa [if_neg (Bool.eq_false_iff.mp hcc)] at hret
  · exact (two.popPc.upd fun c => { c with iff1 := c.iff2 }).runsAs_endPlain rfl
  · exact (two.popPc.upd fun c => { c with iff1 := c.iff2 }).runsAs_endPlain rfl
  · obtain rfl := eq_rstTarget hp
    exact (((one.icIR 1).push Cpu.pc).upd fun c =>
      { c with pc := rstTarget y, memptr := rstTarget y }).runsAs_endPlain rfl

end

section
/-! PROOFS. The block instructions (46_block.md): one iteration behind its fetch, and the going back of a repeat. -/

namespace Sys2Proof.Machine

/-! ### Schedules and flags in the words of the rules -/

/-- The five cycles of a looping iteration store nothing. -/
theorem stores_loopActs (xs : List Act) (b : Bool) (a : Word) : stores (xs ++ loopActs b a) = stores xs := by
  rw [stores_append]
  cases b <;> exact List.append_nil _

theorem maskIf_bit3 (v : Byte) : maskIf (v.getLsbD 3) 0x08 = v &&& 0x08 := by revert v; decide

theorem maskIf_bne_zero (w : Word) (m : Byte) : maskIf (w != 0) m = if w = 0 then 0 else m := by
  simp [maskIf, ite_not]

/-- Rule R392. -/
theorem ldBlockFlags_eq (a v f : Byte) (bc1 : Word) :
    ldBlockFlags a v bc1 f = (f &&& 0xC1) ||| (if (v + a).getLsbD 1 then 0x20 else 0) ||| ((v + a) &&& 0x08) |||
      (if bc1 = 0 then 0 else 0x04) := by
  rw [ldBlockFlags, maskIf_bit3, maskIf_bne_zero, maskIf]

/-- Rule R396, with n the difference less the half carry. -/
theorem cpBlockFlags_eq {a v n : Byte} (f : Byte) (bc1 : Word)
    (hn : n = a - v - (if a.toNat % 16 < v.toNat % 16 then 1 else 0)) :
    cpBlockFlags a v bc1 f = ((a - v) &&& 0x80) ||| (if a - v = 0 then 0x40 else 0) |||
      (if n.getLsbD 1 then 0x20 else 0) ||| (if a.toNat % 16 < v.toNat % 16 then 0x10 else 0) ||| (n &&& 0x08) |||
      (if bc1 = 0 then 0 else 0x04) ||| 0x02 ||| (f &&& 0x01) := by
  have hborrow : ∀ m, maskIf (decide (nibble a < nibble v)) m = if a.toNat % 16 < v.toNat % 16 then m else 0 :=
    fun m => by
      simp only [maskIf, decide_eq_true_eq]
      rfl
  rw [cpBlockFlags, maskIf_bne_zero, hborrow, hborrow, ← hn, maskIf_bit3]
  simp only [maskIf, beq_iff_eq]

/-- Rule R400. -/
theorem bioFlags_eq (v b1 : Byte) (k : Nat) :
    bioFlags v k b1 = sz53 b1 ||| (if k > 255 then 0x11 else 0) ||| (if v.getLsbD 7 then 0x02 else 0) |||
      (if parity (BitVec.ofNat 8 (k % 8) ^^^ b1) then 0x04 else 0) := by
  simp only [bioFlags, maskIf, decide_eq_true_eq]

/-! ### The registers behind one iteration that does not go back: `delta` is 1 or -1 -/

/-- Rules R392, R393. -/
def transferred (delta : Word) (s : State) : Cpu :=
  Cpu.flagged (ldBlockFlags s.cpu.a (s.byteAt s.cpu.hl) (s.cpu.bc - 1) s.cpu.f)
    ((((s.cpu.fetched 2 2).setBc (s.cpu.bc - 1)).setHl (s.cpu.hl + delta)).setDe (s.cpu.de + delta))

/-- Rules R396, R397. -/
def searched (delta : Word) (s : State) : Cpu :=
  Cpu.flagged (cpBlockFlags s.cpu.a (s.byteAt s.cpu.hl) (s.cpu.bc - 1) s.cpu.f)
    { ((s.cpu.fetched 2 2).setBc (s.cpu.bc - 1)).setHl (s.cpu.hl + delta) with memptr := s.cpu.memptr + delta }

/-- Rules R401, R402. -/
def received (delta : Word) (s : State) : Cpu :=
  Cpu.flagged (bioFlags (inBlockByte s) ((inBlockByte s).toNat + (s.cpu.c + loByte delta).toNat) (s.cpu.b - 1))
    { (s.cpu.fetched 2 2).setHl (s.cpu.hl + delta) with b := s.cpu.b - 1, memptr := s.cpu.bc + delta }

/-- Rules R405, R406. -/
def sent (delta : Word) (s : State) : Cpu :=
  Cpu.flagged
    (bioFlags (s.byteAt s.cpu.hl) ((s.byteAt s.cpu.hl).toNat + (loByte (s.cpu.hl + delta)).toNat) (s.cpu.b - 1))
    { (s.cpu.fetched 2 2).setHl (s.cpu.hl + delta) with
      b := s.cpu.b - 1, memptr := join (s.cpu.b - 1) s.cpu.c + delta }

variable {s : State} {i : Instr} {delta : Word}

/-! ### The end of a repeat (rules R390, R391) -/

/-- The end of a repeating form, which goes back while `p` and stops where `stop`. -/
theorem Reaches.runsAs_repeat {u : State} {acts : List Act} {c : Cpu} {f : Byte} {a a' : Word} {p stop : Prop}
    [Decidable p] [Decidable stop] {b : Bool} (h : Reaches s acts { c with f := f } u) (ha : a = a')
    (hp : p ↔ b = true) (hstop : b = true ↔ ¬stop)
    (hx : exec i s = endFlags (if p then repeatAt s.cpu.pc a u else u)) (hcyc : cycles i s = acts ++ loopActs b a') :
    RunsAs i s
      (if stop then c.flagged f else { c.flagged f with pc := s.cpu.pc, memptr := s.cpu.pc + 1 }) := by
  have hloop := h.looping s.cpu.pc ha hp
  rw [← hcyc] at hloop
  by_cases hs : stop
  · have hno : ¬p := fun hgo => hstop.mp (hp.mp hgo) hs
    simp only [if_neg hno] at hloop hx
    rw [if_pos hs]
    exact hloop.runsAs_endFlags hx
  · have hgo : p := hp.mpr (hstop.mpr hs)
    simp only [if_pos hgo] at hloop hx
    rw [if_neg hs]
    exact hloop.runsAs_endFlags (c := { c with pc := s.cpu.pc, memptr := s.cpu.pc + 1 }) hx

/-! ### Block transfer and block search -/

/-- LDI and LDD. -/
theorem runsAs_ldBlock (hx : exec i s = endFlags (ldBlock delta (m1 (m1 s)))) (hcyc : cycles i s = cycles .ldi s) :
    RunsAs i s (transferred delta s) :=
  (hcyc ▸ (Reaches.start s).m1.ldBlock delta : Reaches s (cycles i s) _ _).runsAs_endFlags hx

/-- LDIR and LDDR. -/
theorem runsAs_ldBlockRepeat (hx : exec i s = ldBlockRepeat delta s) (hcyc : cycles i s = cycles .ldir s) :
    RunsAs i s (if s.cpu.bc - 1 = 0 then transferred delta s
      else { transferred delta s with pc := s.cpu.pc, memptr := s.cpu.pc + 1 }) := by
  have h := (Reaches.start s).m1.ldBlock delta
  have hbc : (ldBlock delta (m1 (m1 s))).cpu.bc = s.cpu.bc - 1 :=
    (congrArg Cpu.bc h.cpu).trans (join_hiByte_loByte _)
  exact h.runsAs_repeat rfl (by rw [hbc, bne_iff_ne]) bne_iff_ne hx hcyc

/-- CPI and CPD. -/
theorem runsAs_cpBlock (hx : exec i s = endFlags (cpBlock delta (m1 (m1 s)))) (hcyc : cycles i s = cycles .cpi s) :
    RunsAs i s (searched delta s) :=
  (hcyc ▸ (Reaches.start s).m1.cpBlock delta : Reaches s (cycles i s) _ _).runsAs_endFlags hx

/-- CPIR and CPDR. -/
theorem runsAs_cpBlockRepeat (hx : exec i s = cpBlockRepeat delta s) (hcyc : cycles i s = cycles .cpir s) :
    RunsAs i s (if s.cpu.bc - 1 = 0 ∨ s.cpu.a - s.byteAt s.cpu.hl = 0 then searched delta s
      else { searched delta s with pc := s.cpu.pc, memptr := s.cpu.pc + 1 }) := by
  have h := (Reaches.start s).m1.cpBlock delta
  have hbc : (cpBlock delta (m1 (m1 s))).cpu.bc = s.cpu.bc - 1 :=
    (congrArg Cpu.bc h.cpu).trans (join_hiByte_loByte _)
  refine h.runsAs_repeat rfl ?_ ?_ hx hcyc
  · rw [hbc, Bool.and_eq_true, bne_iff_ne, bne_iff_ne, beq_eq_false_iff_ne]
  · rw [Bool.and_eq_true, bne_iff_ne, bne_iff_ne, not_or, sub_eq_zero (a := s.cpu.a)]

/-! ### Block input: the byte is what the port gives behind the prelude -/

/-- To settle what an instruction does it is enough to look at the runs of its schedule that end: in every other run it
meets the overrun (`exists_runsAs`). -/
theorem runsAs_of_completed {c : Cpu}
    (h : ∀ b, s.fault = none → s.plays (cycles i s) = some b → RunsAs i s c) : RunsAs i s c := by
  obtain ⟨d, hd⟩ := exists_runsAs i s
  exact fun hf => ⟨fun b hb => (h b hf hb hf).1 b hb, (hd hf).2⟩

/-- In a run that ends, the byte the machine reads from port BC is the one the schedule stores. -/
theorem portIn_inPrelude {b : Bus} {rest : List Act} (hf : s.fault = none)
    (hb : s.plays (inPrelude s.cpu ++ rest) = some b) : portIn s.cpu.bc (icIR 1 (m1 (m1 s))) = inBlockByte s := by
  rw [State.plays, play_append] at hb
  obtain ⟨mid, hmid, -⟩ := Option.bind_eq_some_iff.mp hb
  exact (reaches_inPrelude s).portIn_eq hf hmid s.cpu.bc

/-- INI and IND. -/
theorem runsAs_inBlock (hx : exec i s = endFlags (inBlock delta (m1 (m1 s)))) (hcyc : cycles i s = cycles .ini s) :
    RunsAs i s (received delta s) := by
  refine runsAs_of_completed fun b hf hb => ?_
  rw [hcyc] at hb
  have h := (reaches_inPrelude s).inBlock delta (portIn_inPrelude hf hb)
  exact (hcyc ▸ h : Reaches s (cycles i s) _ _).runsAs_endFlags hx

/-- INIR and INDR. -/
theorem runsAs_inBlockRepeat (hx : exec i s = inBlockRepeat delta s) (hcyc : cycles i s = cycles .inir s) :
    RunsAs i s (if s.cpu.b - 1 = 0 then received delta s
      else { received delta s with pc := s.cpu.pc, memptr := s.cpu.pc + 1 }) := by
  refine runsAs_of_completed fun b hf hb => ?_
  rw [hcyc] at hb
  have h := (reaches_inPrelude s).inBlock delta (portIn_inPrelude hf hb)
  exact h.runsAs_repeat rfl (by rw [h.cpu, bne_iff_ne]; rfl) bne_iff_ne hx hcyc

/-! ### Block output -/

/-- OUTI and OUTD. -/
theorem runsAs_outBlock (hx : exec i s = endFlags (outBlock delta (m1 (m1 s)))) (hcyc : cycles i s = cycles .outi s) :
    RunsAs i s (sent delta s) :=
  (hcyc ▸ (reaches_inPrelude s).outBlock delta : Reaches s (cycles i s) _ _).runsAs_endFlags hx

/-- OTIR and OTDR. -/
theorem runsAs_outBlockRepeat (hx : exec i s = outBlockRepeat delta s) (hcyc : cycles i s = cycles .otir s) :
    RunsAs i s (if s.cpu.b - 1 = 0 then sent delta s
      else { sent delta s with pc := s.cpu.pc, memptr := s.cpu.pc + 1 }) := by
  have h := (reaches_inPrelude s).outBlock delta
  exact h.runsAs_repeat (by rw [h.cpu]; rfl) (by rw [h.cpu, bne_iff_ne]; rfl) bne_iff_ne hx hcyc

end Sys2Proof.Machine

open Sys2Proof Sys2Proof.Machine

/-- Settles O49: `runsAs_ldBlock` and `runsAs_ldBlockRepeat`, up and down. -/
theorem blockTransfersMoveOneByteAStep : Obligations.BlockTransfersMoveOneByteAStep := by
  unfold Obligations.BlockTransfersMoveOneByteAStep
  rintro s v n f bc1 up down rfl rfl rfl hflags hup hdown
  rw [← ldBlockFlags_eq] at hflags
  obtain rfl : up = transferred 1 s := by rw [hup, hflags, transferred]
  obtain rfl : down = transferred (-1) s := by
    rw [hdown, hflags, transferred, sub_eq_add_neg s.cpu.hl, sub_eq_add_neg s.cpu.de]
  exact ⟨rfl, runsAs_ldBlock rfl rfl, rfl, runsAs_ldBlock rfl rfl,
    stores_loopActs _ _ _, runsAs_ldBlockRepeat rfl rfl, stores_loopActs _ _ _, runsAs_ldBlockRepeat rfl rfl⟩

/-- Settles O50: `runsAs_cpBlock` and `runsAs_cpBlockRepeat`, up and down. -/
theorem blockSearchesCompareOneByteAStep : Obligations.BlockSearchesCompareOneByteAStep := by
  unfold Obligations.BlockSearchesCompareOneByteAStep
  rintro s v d n f bc1 up down rfl rfl rfl hn hflags hup hdown
  rw [← cpBlockFlags_eq s.cpu.f _ hn] at hflags
  obtain rfl : up = searched 1 s := by rw [hup, hflags, searched]
  obtain rfl : down = searched (-1) s := by
    rw [hdown, hflags, searched, sub_eq_add_neg s.cpu.hl, sub_eq_add_neg s.cpu.memptr]
  exact ⟨runsAs_cpBlock rfl rfl, runsAs_cpBlock rfl rfl, runsAs_cpBlockRepeat rfl rfl, runsAs_cpBlockRepeat rfl rfl⟩

/-- Settles O51: input is `runsAs_inBlock` and `runsAs_inBlockRepeat`, output `runsAs_outBlock` and
`runsAs_outBlockRepeat`, up and down. -/
theorem blockInputAndOutputMoveOneByteAStep : Obligations.BlockInputAndOutputMoveOneByteAStep := by
  unfold Obligations.BlockInputAndOutputMoveOneByteAStep
  rintro s v m b1 l1 l2 port flags iniS indS outS outdS rfl rfl rfl rfl rfl rfl hflags hini hind hout houtd
  simp only [hflags, ← bioFlags_eq] at hini hind hout houtd
  obtain rfl : iniS = received 1 s := hini
  obtain rfl : indS = received (-1) s := by
    rw [hind, received, sub_eq_add_neg s.cpu.hl, sub_eq_add_neg s.cpu.bc, sub_eq_add_neg s.cpu.c]
    rfl
  obtain rfl : outS = sent 1 s := hout
  obtain rfl : outdS = sent (-1) s := by
    rw [houtd, sent, sub_eq_add_neg s.cpu.hl, sub_eq_add_neg (join _ _)]
  refine ⟨?_, ?_, runsAs_inBlock rfl rfl, runsAs_inBlock rfl rfl, runsAs_outBlock rfl rfl, runsAs_outBlock rfl rfl,
    runsAs_inBlockRepeat rfl rfl, runsAs_inBlockRepeat rfl rfl, runsAs_outBlockRepeat rfl rfl,
    runsAs_outBlockRepeat rfl rfl⟩
  · simp only [List.forall_mem_cons]
    exact ⟨rfl, rfl, stores_loopActs _ _ _, stores_loopActs _ _ _, nofun⟩
  · have hsend : Act.iow (join (s.cpu.b - 1) s.cpu.c) (s.byteAt s.cpu.hl) ∈ cycles .outi s := by simp [cycles]
    simp only [List.forall_mem_cons]
    exact ⟨⟨rfl, hsend⟩, ⟨rfl, hsend⟩, ⟨stores_loopActs _ _ _, List.mem_append_left _ hsend⟩,
      ⟨stores_loopActs _ _ _, List.mem_append_left _ hsend⟩, nofun⟩

end

section
/-! PROOFS. The 8-bit operations on index halves and on the byte at XY + d (48_index.md). -/

namespace Sys2Proof.Machine

theorem Cpu.getHalf_of_fetched (c : Cpu) (k n : Nat) (x : XY) (h : Half) :
    (c.fetched k n).getHalf x h = c.getHalf x h := c.getHalf_fetched _ _ x h

theorem Cpu.getRx_of_fetched (c : Cpu) (k n : Nat) (x : XY) (r : Reg8) :
    (c.fetched k n).getRx x r = c.getRx x r := c.getRx_fetched _ _ x r

/-- Rule R140 says the address of an (XY+d) form as `indexAddr` computes it. -/
theorem Cpu.ofInt_eq_indexAddr (c : Cpu) (x : XY) (d : Byte) :
    BitVec.ofInt 16 ((c.getXy x).toNat + d.toInt) = c.indexAddr x d := Machine.indexAddr_eq (c.getXy x) d

namespace Reaches

variable {s u : State} {acts : List Act} {k n : Nat}

/-- The byte at XY + d reads behind the fetches as it stood at the start. -/
theorem byteAtXy (h : Reaches s acts (s.cpu.fetched k n) u) (x : XY) (d : Byte) (hs : stores acts = [] := by rfl) :
    u.byteAt (u.cpu.indexAddr x d) = s.byteAt (s.cpu.indexAddr x d) := by
  rw [h.byteAt_eq hs, h.indexAddr_eq]

/-- The byte `v` at XY + d changed to `op v`, with the copy of a DDCB/FDCB form. -/
theorem modifyXyByte (h : Reaches s acts (s.cpu.fetched k n) u) (x : XY) (d : Byte) (op : Byte → Byte)
    (cp : Option Reg8) (hs : stores acts = [] := by rfl) :
    Reaches s (acts ++ modifyActs (s.cpu.indexAddr x d) (op (s.byteAt (s.cpu.indexAddr x d))))
      (Cpu.setCopy cp (op (s.byteAt (s.cpu.indexAddr x d)))
        { s.cpu.fetched k n with memptr := s.cpu.indexAddr x d })
      (Machine.modifyXyByte (u.cpu.indexAddr x d) (op (u.byteAt (u.cpu.indexAddr x d))) cp u) := by
  rw [← h.byteAtXy x d hs]
  have h2 := (h.modifyXy x d (fun _ => op) hs).upd (Cpu.setCopy cp (op (u.byteAt (u.cpu.indexAddr x d))))
  rwa [← h.byteAtXy x d hs] at h2

end Reaches

variable {i : Instr} {s : State} {x : XY} {k : Half} {d : Byte} {c : Cpu}

/-! ### The operations on A (rules R474 to R489) -/

/-- The operand is an index half. -/
theorem runsAs_accOnHalf (op : Cpu → Byte → Byte × Byte) (hx : exec i s = accOnHalf op x k s)
    (hcyc : cycles i s = [.m1 s.cpu.pc, .m1 (s.cpu.pc + 1)]) :
    RunsAs i s (Cpu.flagged (op (s.cpu.fetched 2 2) (s.cpu.getHalf x k)).2
      { s.cpu.fetched 2 2 with a := (op (s.cpu.fetched 2 2) (s.cpu.getHalf x k)).1 }) :=
  (hcyc ▸ (Reaches.start s).m1 : Reaches s (cycles i s) _ _).runsAs_setAcc (fun c => op c (c.getHalf x k))
    (by rw [Cpu.getHalf_of_fetched]) hx

/-- The operand is the byte at XY + d. -/
theorem runsAs_accOnMxy (op : Cpu → Byte → Byte × Byte) (hx : exec i s = accOnMxy op x d s)
    (hcyc : cycles i s = fetchDActs s.cpu.pc ++ [.mr (s.cpu.indexAddr x d)])
    (hc : c = { s.cpu.fetched 2 3 with memptr := s.cpu.indexAddr x d }) :
    RunsAs i s (Cpu.flagged (op c (s.byteAt (s.cpu.indexAddr x d))).2
      { c with a := (op c (s.byteAt (s.cpu.indexAddr x d))).1 }) := by
  subst hc
  have xyD := Reaches.fetchXyD s
  rw [← xyD.byteAtXy x d]
  exact (hcyc ▸ xyD.readXy x d : Reaches s (cycles i s) _ _).runsAs_setAcc
    (fun c => op c ((fetchXyD s).byteAt ((fetchXyD s).cpu.indexAddr x d))) rfl hx

/-! ### Rotates, shifts and single bits of the byte at XY + d (rules R490 to R497, R511 to R513) -/

/-- A rotate or shift, with its copy. -/
theorem runsAs_rotOnMxy (rot : Bool → Byte → Byte × Bool) {cp : Option Reg8} {res out : Byte}
    (hx : exec i s = rotOnMxy rot x d cp s)
    (hcyc : cycles i s = fetchCbActs s.cpu.pc
      ++ modifyActs (s.cpu.indexAddr x d) (rot (flagC s.cpu.f) (s.byteAt (s.cpu.indexAddr x d))).1)
    (hres : (rot (flagC s.cpu.f) (s.byteAt (s.cpu.indexAddr x d))).1 = res)
    (hout : maskIf (rot (flagC s.cpu.f) (s.byteAt (s.cpu.indexAddr x d))).2 0x01 = out) :
    stores (cycles i s) = [(s.cpu.indexAddr x d, res)] ∧
      RunsAs i s (Cpu.flagged (sz53p res ||| out)
        (Cpu.setCopy cp res { s.cpu.fetched 2 4 with memptr := s.cpu.indexAddr x d })) := by
  subst hres hout
  have xyCb := Reaches.fetchXyCb s
  have h := (xyCb.modifyXyByte x d (fun v => (rot (flagC s.cpu.f) v).1) cp).upd fun c =>
    { c with f := rotFlags (rot (flagC s.cpu.f) (s.byteAt (s.cpu.indexAddr x d))) }
  have hf : (fetchXyCb s).cpu.f = s.cpu.f := by rw [xyCb.cpu]; rfl
  refine ⟨by rw [hcyc]; rfl, Reaches.runsAs_endFlags (hcyc ▸ h) (hx.trans ?_)⟩
  rw [rotOnMxy, ← xyCb.byteAtXy x d, hf]

theorem runsAs_bitMxy (b z : Fin 8) :
    RunsAs (.bitMxy x d b z) s
      (Cpu.flagged (bitFlags b (s.byteAt (s.cpu.indexAddr x d)) (hiByte (s.cpu.indexAddr x d)) s.cpu.f)
        { s.cpu.fetched 2 4 with memptr := s.cpu.indexAddr x d }) := by
  have xyCb := Reaches.fetchXyCb s
  rw [← xyCb.byteAtXy x d]
  exact ((xyCb.readXyIc x d 1).upd fun c =>
    { c with f := bitFlags b ((fetchXyCb s).byteAt ((fetchXyCb s).cpu.indexAddr x d)) (hiByte c.memptr) c.f
      }).runsAs_endFlags rfl

/-- The form that RES and SET share. -/
def changeBitMxy (op : Byte → Byte) (x : XY) (d : Byte) (cp : Option Reg8) (s : State) : Result :=
  let s := fetchXyCb s
  let ea := s.cpu.indexAddr x d
  endPlain (modifyXyByte ea (op (s.byteAt ea)) cp s)

theorem runsAs_changeBitMxy (op : Byte → Byte) {cp : Option Reg8} {res : Byte}
    (hx : exec i s = changeBitMxy op x d cp s)
    (hcyc : cycles i s = fetchCbActs s.cpu.pc
      ++ modifyActs (s.cpu.indexAddr x d) (op (s.byteAt (s.cpu.indexAddr x d))))
    (hres : op (s.byteAt (s.cpu.indexAddr x d)) = res) :
    stores (cycles i s) = [(s.cpu.indexAddr x d, res)] ∧
      RunsAs i s (Cpu.setCopy cp res { s.cpu.fetched 2 4 with memptr := s.cpu.indexAddr x d }).quiet := by
  subst hres
  have h := (Reaches.fetchXyCb s).modifyXyByte x d op cp
  exact ⟨by rw [hcyc]; rfl, Reaches.runsAs_endPlain (hcyc ▸ h) hx⟩

/-! ### INC, DEC and loads (rules R459 to R467): `op` is given the byte and F -/

/-- The form that INC and DEC of an index half share. -/
def changeHalf (op : Byte → Byte → Byte × Byte) (x : XY) (k : Half) (s : State) : Result :=
  endFlags ((m1 (m1 s)).upd fun c =>
    { c.setHalf x k (op (c.getHalf x k) c.f).1 with f := (op (c.getHalf x k) c.f).2 })

/-- The form that INC and DEC of the byte at XY + d share. -/
def changeMxy (op : Byte → Byte → Byte × Byte) (x : XY) (d : Byte) (s : State) : Result :=
  let s := fetchXyD s
  let ea := s.cpu.indexAddr x d
  let rf := op (s.byteAt ea) s.cpu.f
  endFlags ((modifyByte ea rf.1 (setMemptr ea s)).upd fun c => { c with f := rf.2 })

theorem runsAs_changeHalf (op : Byte → Byte → Byte × Byte) (hx : exec i s = changeHalf op x k s)
    (hcyc : cycles i s = [.m1 s.cpu.pc, .m1 (s.cpu.pc + 1)]) :
    RunsAs i s (Cpu.flagged (op (s.cpu.getHalf x k) s.cpu.f).2
      ((s.cpu.fetched 2 2).setHalf x k (op (s.cpu.getHalf x k) s.cpu.f).1)) := by
  have h := (Reaches.start s).m1.upd fun c =>
    { c.setHalf x k (op (c.getHalf x k) c.f).1 with f := (op (c.getHalf x k) c.f).2 }
  rw [Cpu.getHalf_of_fetched] at h
  exact Reaches.runsAs_endFlags (hcyc ▸ h) hx

theorem runsAs_changeMxy (op : Byte → Byte → Byte × Byte) (hx : exec i s = changeMxy op x d s)
    (hcyc : cycles i s = fetchDActs s.cpu.pc
      ++ modifyActs (s.cpu.indexAddr x d) (op (s.byteAt (s.cpu.indexAddr x d)) s.cpu.f).1) :
    RunsAs i s (Cpu.flagged (op (s.byteAt (s.cpu.indexAddr x d)) s.cpu.f).2
      { s.cpu.fetched 2 3 with memptr := s.cpu.indexAddr x d }) := by
  have xyD := Reaches.fetchXyD s
  have h := (xyD.modifyXy x d fun c v => (op v c.f).1).upd fun c =>
    { c with f := (op (s.byteAt (s.cpu.indexAddr x d)) s.cpu.f).2 }
  have hf : (fetchXyD s).cpu.f = s.cpu.f := by rw [xyD.cpu]; rfl
  refine Reaches.runsAs_endFlags (hcyc ▸ h) (hx.trans ?_)
  rw [changeMxy, ← xyD.byteAtXy x d, hf]

theorem runsAs_ldRRHalf (r r2 : Reg8) :
    RunsAs (.ldRRHalf x r r2) s ((s.cpu.fetched 2 2).setRx x r (s.cpu.getRx x r2)).quiet := by
  have h := (Reaches.start s).m1.upd fun c => c.setRx x r (c.getRx x r2)
  rw [Cpu.getRx_of_fetched] at h
  exact h.runsAs_endPlain rfl

theorem runsAs_ldRMxy (r : Reg8) :
    RunsAs (.ldRMxy x r d) s
      (Cpu.setR r (s.byteAt (s.cpu.indexAddr x d))
        { s.cpu.fetched 2 3 with memptr := s.cpu.indexAddr x d }).quiet := by
  have xyD := Reaches.fetchXyD s
  rw [← xyD.byteAtXy x d]
  exact ((xyD.readXy x d).upd (Cpu.setR r _)).runsAs_endPlain rfl

theorem runsAs_ldMxyR (r : Reg8) :
    RunsAs (.ldMxyR x r d) s { s.cpu.fetched 2 3 with memptr := s.cpu.indexAddr x d }.quiet := by
  have h := (Reaches.fetchXyD s).storeXy x d (Cpu.getR r)
  rw [Cpu.getR_of_fetched] at h
  exact h.runsAs_endPlain rfl

end Sys2Proof.Machine

open Sys2Proof Sys2Proof.Machine

/-- Settles O35: `runsAs_accOnHalf` for each of the eight operations on A. -/
theorem aluOperationsOnIndexHalves : Obligations.AluOperationsOnIndexHalves := by
  unfold Obligations.AluOperationsOnIndexHalves
  rintro s x k a v f cy c rfl rfl rfl rfl rfl
  exact ⟨runsAs_accOnHalf accAdd rfl rfl, runsAs_accOnHalf accAdc rfl rfl, runsAs_accOnHalf accSub rfl rfl,
    runsAs_accOnHalf accSbc rfl rfl, runsAs_accOnHalf accAnd rfl rfl, runsAs_accOnHalf accXor rfl rfl,
    runsAs_accOnHalf accOr rfl rfl, runsAs_accOnHalf accCp rfl rfl⟩

/-- Settles O36: `runsAs_accOnMxy` for each of the eight operations on A. -/
theorem aluOperationsOnIndexedMemory : Obligations.AluOperationsOnIndexedMemory := by
  unfold Obligations.AluOperationsOnIndexedMemory
  rintro s x d a v f cy ea c hea rfl rfl rfl rfl hc
  obtain rfl := hea.trans (s.cpu.ofInt_eq_indexAddr x d)
  have ha : s.cpu.a = c.a := hc ▸ rfl
  have hf : s.cpu.f = c.f := hc ▸ rfl
  rw [ha, hf]
  exact ⟨runsAs_accOnMxy accAdd rfl rfl hc, runsAs_accOnMxy accAdc rfl rfl hc, runsAs_accOnMxy accSub rfl rfl hc,
    runsAs_accOnMxy accSbc rfl rfl hc, runsAs_accOnMxy accAnd rfl rfl hc, runsAs_accOnMxy accXor rfl rfl hc,
    runsAs_accOnMxy accOr rfl rfl hc, runsAs_accOnMxy accCp rfl rfl hc⟩

/-- Settles O43: `runsAs_rotOnMxy` for each of the eight, with its result and its bit shifted out. -/
theorem rotatesAndShiftsOfIndexedMemory : Obligations.RotatesAndShiftsOfIndexedMemory := by
  unfold Obligations.RotatesAndShiftsOfIndexedMemory
  rintro s x d cp ea v cy c hea rfl rfl rfl
  obtain rfl := hea.trans (s.cpu.ofInt_eq_indexAddr x d)
  refine ⟨fun u => ⟨rfl, fun _ => rfl⟩, ?_, ?_, ?_, ?_, ?_, ?_, ?_, ?_⟩ <;> rintro res rfl
  · exact runsAs_rotOnMxy (fun _ => rotRlc) rfl rfl (rotRlc_eq_rotateLeft _) (maskIf_bit7 _)
  · exact runsAs_rotOnMxy (fun _ => rotRrc) rfl rfl (rotRrc_eq_rotateRight _) (maskIf_bit0 _)
  · exact runsAs_rotOnMxy rotRl rfl rfl rfl (maskIf_bit7 _)
  · exact runsAs_rotOnMxy rotRr rfl rfl rfl (maskIf_bit0 _)
  · exact runsAs_rotOnMxy (fun _ => rotSla) rfl rfl (rotSla_eq_double _) (maskIf_bit7 _)
  · exact runsAs_rotOnMxy (fun _ => rotSra) rfl rfl (rotSra_eq_sshiftRight _) (maskIf_bit0 _)
  · exact runsAs_rotOnMxy (fun _ => rotSll) rfl rfl (rotSll_eq_double_add_one _) (maskIf_bit7 _)
  · exact runsAs_rotOnMxy (fun _ => rotSrl) rfl rfl rfl (maskIf_bit0 _)

/-- Settles O45: BIT by `bitFlags_eq`; the byte that RES or SET writes is determined bit by bit
(`resBit_eq_of_getLsbD`, `setBit_eq_of_getLsbD`). -/
theorem bitOperationsOnIndexedMemory : Obligations.BitOperationsOnIndexedMemory := by
  unfold Obligations.BitOperationsOnIndexedMemory
  rintro s x d b z cp ea m c hea rfl rfl
  obtain rfl := hea.trans (s.cpu.ofInt_eq_indexAddr x d)
  rw [← bitFlags_eq]
  exact ⟨runsAs_bitMxy b z, fun _ h => runsAs_changeBitMxy (resBit b) rfl rfl (resBit_eq_of_getLsbD h),
    fun _ h => runsAs_changeBitMxy (setBit b) rfl rfl (setBit_eq_of_getLsbD h)⟩

/-- Settles O55: one rule for a half and one for the byte at XY + d, each taken with `inc8` and with `dec8`, and the
loads behind their fetches. -/
theorem byteOperationsOnIndexHalvesAndIndexedMemory : Obligations.ByteOperationsOnIndexHalvesAndIndexedMemory := by
  unfold Obligations.ByteOperationsOnIndexHalvesAndIndexedMemory
  rintro s x k r r2 d n v m f ea c hea rfl rfl rfl rfl
  obtain rfl := hea.trans (s.cpu.ofInt_eq_indexAddr x d)
  refine ⟨(join_hiByte_loByte _).symm, ⟨rfl, rfl⟩, rfl, rfl, runsAs_changeHalf inc8 rfl rfl,
    runsAs_changeHalf dec8 rfl rfl, ?_, runsAs_ldRRHalf r r2, runsAs_ldRMxy r, runsAs_ldMxyR r, ?_,
    runsAs_changeMxy inc8 rfl rfl, runsAs_changeMxy dec8 rfl rfl, rfl, rfl, rfl, rfl⟩
  · exact ((Reaches.start s).m1.mrPc.upd (Cpu.setHalf x k n)).runsAs_endPlain rfl
  · exact ((Reaches.fetchXyCb s).storeXy x d fun _ => n).runsAs_endPlain rfl

end

section
/-! PROOFS. Port instructions and CPU control (47_io_cpu_control.md), and the lone prefix (48_index.md). -/

namespace Sys2Proof.Machine

namespace Reaches

variable {s u v : State} {acts rest : List Act} {c d : Cpu} {i : Instr} {p : Word}

/-- In a run that ends, a port returns the byte the schedule up to the access says. -/
theorem portIn_of_completed {b : Bus} (h : Reaches s acts d v) (hf : s.fault = none)
    (hb : s.plays (acts ++ rest) = some b) (p : Word) : portIn p v = s.portByte acts p := by
  rw [State.plays, play_append] at hb
  obtain ⟨mid, hmid, -⟩ := Option.bind_eq_some_iff.mp hb
  exact h.portIn_eq hf hmid p

/-- An instruction whose Cycles line ends in a port read may take the byte read to be the one the schedule says. -/
theorem runsAs_of_portIn (h : Reaches s acts d v) (hcyc : cycles i s = acts ++ [.ior p])
    (hrun : portIn p v = s.portByte acts p → RunsAs i s c) : RunsAs i s c :=
  runsAs_of_completed fun _ hf hb => hrun (h.portIn_of_completed hf (hcyc ▸ hb) p)

/-- A byte `x` read from a port, and what becomes of the registers with the port's address and the byte. -/
theorem loadPort (h : Reaches s acts c u) (port : Cpu → Word) (f : Word → Byte → Cpu → Cpu) {x : Byte}
    (hx : portIn (port c) u = x) :
    Reaches s (acts ++ [.ior (port c)]) (f (port c) x c)
      ((Machine.ior (port u.cpu) u).upd (f (port u.cpu) (portIn (port u.cpu) u))) := by
  obtain rfl := h.cpu
  subst hx
  exact (h.ior port).upd (f (port u.cpu) (portIn (port u.cpu) u))

/-- The end that sets EI_SHADOW. -/
theorem runsAs_endShadow (h : Reaches s (cycles i s) c u) (hx : exec i s = endShadow u) :
    RunsAs i s { c with q := 0, eiShadow := true } :=
  runsAs_of (u.upd fun d => { d with q := 0, eiShadow := true }) hx
    (fun hf => by rw [upd_live, h.live, State.live_of_none hf]; rfl)
    (fun _ _ _ => ⟨by rw [State.upd_cpu, h.cpu], h.mem⟩) h.roFlips

end Reaches

variable {s : State}

theorem runsAs_inAMn (n : Byte) :
    RunsAs (.inAMn n) s
      { s.cpu.fetched 1 2 with
        a := s.portByte [.m1 s.cpu.pc, .mr (s.cpu.pc + 1)] (join s.cpu.a n), memptr := join s.cpu.a n + 1 }.quiet := by
  have imm8 := (Reaches.start s).mrPc
  refine imm8.runsAs_of_portIn rfl fun hread => ?_
  exact (imm8.loadPort (fun c => join c.a n) (fun p x c => { c with a := x, memptr := p + 1 })
    hread).runsAs_endPlain rfl

/-- IN r,(C). -/
theorem runsAs_inRC (r : Reg8) {w : Byte} (hw : w = s.portByte [.m1 s.cpu.pc, .m1 (s.cpu.pc + 1)] s.cpu.bc) :
    RunsAs (.inRC r) s (Cpu.flagged (szpKeepC w s.cpu.f)
      { (s.cpu.fetched 2 2).setR r w with memptr := s.cpu.bc + 1 }) := by
  subst hw
  have two := (Reaches.start s).m1
  refine two.runsAs_of_portIn rfl fun hread => ?_
  exact (two.loadPort Cpu.bc (fun p x c => { c.setR r x with f := szpKeepC x c.f, memptr := p + 1 })
    hread).runsAs_endFlags rfl

/-- IN F,(C). -/
theorem runsAs_inFC {w : Byte} (hw : w = s.portByte [.m1 s.cpu.pc, .m1 (s.cpu.pc + 1)] s.cpu.bc) :
    RunsAs .inFC s (Cpu.flagged (szpKeepC w s.cpu.f) { s.cpu.fetched 2 2 with memptr := s.cpu.bc + 1 }) := by
  subst hw
  have two := (Reaches.start s).m1
  refine two.runsAs_of_portIn rfl fun hread => ?_
  exact (two.loadPort Cpu.bc (fun p x c => { c with f := szpKeepC x c.f, memptr := p + 1 })
    hread).runsAs_endFlags (c := { s.cpu.fetched 2 2 with memptr := s.cpu.bc + 1 }) rfl

end Sys2Proof.Machine

open Sys2Proof Sys2Proof.Machine

/-- Settles O52: an input by `loadPort`, in a run that ends; an output is one port write behind its fetch. -/
theorem portInputAndOutput : Obligations.PortInputAndOutput := by
  unfold Obligations.PortInputAndOutput
  rintro s r n v w p rfl rfl hw
  have imm8 := (Reaches.start s).mrPc
  have two := (Reaches.start s).m1
  refine ⟨runsAs_inAMn n, runsAs_inRC r hw, runsAs_inFC hw, rfl, ?_, rfl, ?_, rfl, ?_⟩
  · exact ((imm8.iow (fun c => join c.a n) Cpu.a).upd fun c =>
      { c with memptr := join c.a (n + 1) }).runsAs_endPlain rfl
  · exact ((two.iow Cpu.bc fun _ => s.cpu.getR r).upd fun c => { c with memptr := c.bc + 1 }).runsAs_endPlain rfl
  · exact ((two.iow Cpu.bc fun _ => 0x00).upd fun c => { c with memptr := c.bc + 1 }).runsAs_endPlain rfl

/-- Settles O53: each runs behind one opcode fetch or two, with at most one change of the registers; EI and a
DD or FD byte alone end by `runsAs_endShadow`. -/
theorem cpuControlInstructions : Obligations.CpuControlInstructions := by
  unfold Obligations.CpuControlInstructions
  intro s y o q x
  have one := Reaches.start s
  have two := one.m1
  refine ⟨one.runsAs_endPlain rfl, ?_, ?_, ?_, ?_, ?_, ?_, two.runsAs_endPlain rfl, ?_⟩
  · exact (one.upd fun c => { c with halt := true, pc := s.cpu.pc }).runsAs_endPlain rfl
  · exact (one.upd fun c => { c with iff1 := false, iff2 := false }).runsAs_endPlain rfl
  · exact (one.upd fun c => { c with iff1 := true, iff2 := true }).runsAs_endShadow (i := .ei) rfl
  · exact (two.upd fun c => { c with im := .im0 }).runsAs_endPlain rfl
  · exact (two.upd fun c => { c with im := .im1 }).runsAs_endPlain rfl
  · exact (two.upd fun c => { c with im := .im2 }).runsAs_endPlain rfl
  · exact one.runsAs_endShadow (i := .lonePrefix x q) rfl

end

section
/-! PROOFS. Taking an interrupt or an NMI (60_exceptions.md rules R525 to R530), reset, and what the host's actions
keep. -/

namespace Sys2Proof.Machine

variable {s u : State}

/-! ### The stack, the vector read and the acknowledge on the live bus -/

theorem sub_one_sub_one (w : Word) : w - 1#16 - 1#16 = w - 2#16 := by bv_omega

/-- A push plays `pushActs`; it reads nothing, so any bytes of memory do. -/
theorem push_live (rd : Word → Byte) (w : Word) (s : State) :
    (push w s).live = s.live.bind (play rd (pushActs s.cpu w)) := by
  simp [push, pushActs, play_cons, play_nil, Act.play, sub_one_sub_one, Option.bind_assoc]

theorem push_mem (w : Word) (s : State) : (push w s).mem = s.memAfter (pushActs s.cpu w) := by
  simp [push, pushActs, State.memAfter, stores, State.storeIn, State.isReadOnly, sub_one_sub_one]

theorem push_roFlips (w : Word) (s : State) : (push w s).roFlips = s.roFlips := by simp [push]

theorem mr2_live (a : Word) (s : State) :
    (mr2 a s).live = s.live.bind (play s.byteAt [.mr a, .mr (a + 1)]) := by
  simp [mr2, play_cons, play_nil, Act.play, Option.bind_assoc]

theorem Cpu.leaveHalt_eq (c : Cpu) :
    c.leaveHalt = { c with halt := false, pc := if c.halt then c.pc + 1 else c.pc } := by
  unfold Cpu.leaveHalt
  split
  · rfl
  · next h => rw [← Bool.eq_false_iff.mpr h]

/-- An acknowledge pushes `back`, the address past the HALT if the machine stands in one. -/
theorem acknowledge_eq (wait : Nat) {back : Word} (hback : back = if s.cpu.halt then s.cpu.pc + 1 else s.cpu.pc) :
    acknowledge wait s
      = push back (passTime wait (s.upd fun c => { c with halt := false, r := bumpRefresh c.r, pc := back })) := by
  subst hback
  simp only [acknowledge, Cpu.leaveHalt_eq]
  rfl

/-- `u` stands behind the primitives `acts`, issued from `s` after `wait` uncontended t-states; `back` is pushed, the
registers are `c`, and the bytes read are those of `rd`. -/
structure Serves (s : State) (wait : Nat) (back : Word) (rd : Word → Byte) (acts : List Act) (c : Cpu) (u : State) :
    Prop where
  live : u.live = play rd acts ⟨s.t + wait, s.trace⟩
  cpu : u.cpu = c
  mem : u.mem = s.memAfter (pushActs s.cpu back)
  roFlips : u.roFlips = s.roFlips

namespace Serves

variable {wait : Nat} {back : Word} {rd : Word → Byte} {acts : List Act} {c : Cpu} {b : Bus}

/-- Steps 1 to 5 of rules R526 and R530: an interrupt clears both enables, an NMI the first alone. -/
theorem acknowledge (wait : Nat) (rd : Word → Byte) (iff2 : Bool) (hf : s.fault = none)
    (hback : back = if s.cpu.halt then s.cpu.pc + 1 else s.cpu.pc) :
    Serves s wait back rd (pushActs s.cpu back)
      { s.cpu with
        halt := false, iff1 := false, iff2 := iff2, r := refreshed 1 s.cpu.r, sp := s.cpu.sp - 2, pc := back }
      (Machine.acknowledge wait (s.upd fun c => { c with iff1 := false, iff2 := iff2 })) := by
  rw [acknowledge_eq (s := s.upd _) wait hback]
  refine ⟨?_, ?_, push_mem _ _, push_roFlips _ _⟩
  · rw [push_live rd, passTime_live, upd_live, upd_live, State.live_of_none hf]
    rfl
  · rw [push_cpu, ← bumpRefresh_eq]
    rfl

theorem upd (h : Serves s wait back rd acts c u) (f : Cpu → Cpu) : Serves s wait back rd acts (f c) (u.upd f) where
  live := h.live
  cpu := congrArg f h.cpu
  mem := h.mem
  roFlips := h.roFlips

/-- Steps 6 and 7. -/
theorem enterHandler (h : Serves s wait back rd acts c u) (w : Word) :
    Serves s wait back rd acts { c with pc := w, memptr := w, q := 0 } (Machine.enterHandler w u) :=
  (h.upd fun k => { k with pc := w, memptr := w }).upd fun k => { k with q := 0 }

/-- The read of the vector (rule R527), behind the push. -/
theorem mr2 (h : Serves s wait back rd acts c u) (a : Word) (hrd : u.byteAt = rd) :
    Serves s wait back rd (acts ++ [.mr a, .mr (a + 1)]) c (Machine.mr2 a u) where
  live := by rw [mr2_live, h.live, hrd, play_append]
  cpu := (mr2_cpu a u).trans h.cpu
  mem := (mr2_mem a u).trans h.mem
  roFlips := (mr2_roFlips a u).trans h.roFlips

theorem outcome_next (h : Serves s wait back rd acts c u) (hb : play rd acts ⟨s.t + wait, s.trace⟩ = some b) :
    outcome u = .next (s.behind (pushActs s.cpu back) c b) := by
  rw [outcome_of_live_some (h.live.trans hb), h.cpu, h.mem, h.roFlips]
  rfl

theorem outcome_fault (h : Serves s wait back rd acts c u) (hn : play rd acts ⟨s.t + wait, s.trace⟩ = none) :
    outcome u = .fault .contentionOverrun := outcome_of_live_none (h.live.trans hn)

end Serves

/-! ### The mode of an accepted interrupt (rules R526, R527) -/

/-- The state behind the acknowledge of an interrupt. -/
def acknowledgeInt (s : State) : State :=
  acknowledge 7 (s.upd fun c => { c with iff1 := false, iff2 := false })

theorem acknowledgeInt_im_vector (s : State) :
    (acknowledgeInt s).cpu.im = s.cpu.im ∧ im2Vector (acknowledgeInt s) = join s.cpu.i 0xFF := by
  rw [im2Vector, acknowledgeInt, acknowledge_cpu, Cpu.leaveHalt_eq]
  exact ⟨rfl, rfl⟩

theorem takeInterrupt_eq (s : State) :
    takeInterrupt s
      = if s.cpu.im = .im2 then
          enterHandler ((acknowledgeInt s).wordAt (join s.cpu.i 0xFF)) (mr2 (join s.cpu.i 0xFF) (acknowledgeInt s))
        else enterHandler 0x0038 (acknowledgeInt s) := by
  have hv : acknowledge 7 (s.upd fun c => { c with iff1 := false, iff2 := false }) = acknowledgeInt s := rfl
  obtain ⟨him, hvec⟩ := acknowledgeInt_im_vector s
  simp only [takeInterrupt, hv, him, hvec]
  cases s.cpu.im with
  | im0 | im1 => rw [if_neg (by decide)]
  | im2 => rw [if_pos rfl]

/-- An accepted interrupt. -/
theorem serves_takeInterrupt {back vector target : Word} {acts : List Act} {pushed : State} (hf : s.fault = none)
    (hback : back = if s.cpu.halt then s.cpu.pc + 1 else s.cpu.pc) (hvector : vector = join s.cpu.i 0xFF)
    (hpushed : pushed = { s with mem := s.memAfter (pushActs s.cpu back) })
    (htarget : target = if s.cpu.im = .im2 then pushed.wordAt vector else 0x0038)
    (hacts : acts = pushActs s.cpu back ++ (if s.cpu.im = .im2 then [.mr vector, .mr (vector + 1)] else [])) :
    Serves s 7 back pushed.byteAt acts
      { s.cpu with
        halt := false, iff1 := false, iff2 := false, r := refreshed 1 s.cpu.r, sp := s.cpu.sp - 2
        pc := target, memptr := target, q := 0 } (takeInterrupt s) := by
  have hack : Serves s 7 back pushed.byteAt (pushActs s.cpu back)
      { s.cpu with
        halt := false, iff1 := false, iff2 := false, r := refreshed 1 s.cpu.r, sp := s.cpu.sp - 2, pc := back }
      (acknowledgeInt s) := Serves.acknowledge 7 pushed.byteAt false hf hback
  have hmem : (acknowledgeInt s).mem = pushed.mem := by rw [hack.mem, hpushed]
  rw [takeInterrupt_eq, ← hvector, State.wordAt_congr hmem]
  by_cases him : s.cpu.im = .im2
  · rw [if_pos him] at htarget hacts ⊢
    subst htarget hacts
    exact (hack.mr2 vector (funext (State.byteAt_congr hmem))).enterHandler _
  · rw [if_neg him] at htarget hacts ⊢
    rw [htarget, hacts, List.append_nil]
    exact hack.enterHandler 0x0038

theorem serves_takeNmi {back : Word} (hf : s.fault = none)
    (hback : back = if s.cpu.halt then s.cpu.pc + 1 else s.cpu.pc) :
    Serves s 5 back s.byteAt (pushActs s.cpu back)
      { s.cpu with
        halt := false, iff1 := false, r := refreshed 1 s.cpu.r, sp := s.cpu.sp - 2
        pc := 0x0066, memptr := 0x0066, q := 0, eiShadow := false } (takeNmi s) :=
  ((Serves.acknowledge 5 s.byteAt s.cpu.iff2 hf hback).enterHandler 0x0066).upd
    fun c => { c with eiShadow := false }

theorem interruptAccepted_iff (hf : s.fault = none) :
    interruptAccepted s = true ↔ s.cpu.iff1 = true ∧ s.cpu.eiShadow = false := by
  simp [interruptAccepted, hf]

theorem nmi_of_no_fault (hf : s.fault = none) : nmi s = outcome (takeNmi s) := by
  simp [nmi, hf]

/-! ### The invariant (rule R540) -/

theorem State.Inv.congr (h : s.Inv) (hmem : u.mem = s.mem) (hro : u.roFlips = s.roFlips) : u.Inv := by
  rw [State.Inv, hmem, hro]
  exact h

theorem State.Inv.upd (h : s.Inv) (f : Cpu → Cpu) : (s.upd f).Inv := h

theorem passTime_inv (h : s.Inv) (n : Nat) : (passTime n s).Inv := h

theorem push_inv (h : s.Inv) (w : Word) : (push w s).Inv := by
  obtain ⟨hmem, hro⟩ := h
  refine ⟨push_wf hmem w, ?_⟩
  rw [push_roFlips]
  exact hro

theorem acknowledge_inv (h : s.Inv) (wait : Nat) : (acknowledge wait s).Inv := by
  rw [acknowledge_eq wait rfl]
  exact push_inv (passTime_inv (h.upd _) wait) _

theorem enterHandler_inv (h : s.Inv) (w : Word) : (enterHandler w s).Inv := (h.upd _).upd _

theorem takeInterrupt_inv (h : s.Inv) : (takeInterrupt s).Inv := by
  have hack : (acknowledgeInt s).Inv := acknowledge_inv (h.upd _) 7
  rw [takeInterrupt_eq]
  split
  · exact enterHandler_inv (hack.congr (mr2_mem _ _) (mr2_roFlips _ _)) _
  · exact enterHandler_inv hack _

theorem takeNmi_inv (h : s.Inv) : (takeNmi s).Inv :=
  (enterHandler_inv (acknowledge_inv (h.upd _) 5) 0x0066).upd _

/-- A call that is answered by a state meeting the invariant, or by none, leaves one. -/
theorem settle_inv (h : s.Inv) {r : Result} (hr : ∀ u, r = .next u → u.Inv) : (settle s r).Inv := by
  cases r with
  | next u => exact hr u rfl
  | fault f => exact h
  | refused f => exact h

theorem settle_outcome_inv (h : s.Inv) (hu : u.Inv) : (settle s (outcome u)).Inv :=
  settle_inv h fun _ hv => (outcome_eq_next.mp hv).2 ▸ hu

theorem interrupt_inv (h : s.Inv) : (settle s (interrupt s).1).Inv := by
  unfold interrupt
  split
  · exact settle_outcome_inv h (takeInterrupt_inv h)
  · exact settle_outcome_inv h h

theorem hostAct_inv (hf : s.fault = none) (h : s.Inv) (call : HostCall) : (hostAct call s).Inv := by
  have ⟨hmem, hro⟩ := h
  cases call with
  | reset hard => exact h
  | step => exact settle_inv h fun u hu => everyStepKeepsTheInvariant s u h hu
  | interrupt => exact interrupt_inv h
  | nmi =>
    show (settle s (nmi s)).Inv
    rw [nmi_of_no_fault hf]
    exact settle_outcome_inv h (takeNmi_inv h)
  | write8 x v | write16 x w | writeBit x b | writeIm m | setTime t => exact h
  | load addr bytes => exact ⟨loadBytes_wf hmem _ _, (loadBytes_roFlips _ _ _).symm ▸ hro⟩
  | clear => exact ⟨clearRam_wf hmem, hro⟩
  | setReadOnly a b => exact ⟨hmem, setReadOnlyIn_wf hro a b⟩

/-! ### Reset (rules R551, R552) -/

theorem Cpu.hostRead8_zero (x : HostReg8) : Cpu.zero.hostRead8 x = 0 := by cases x <;> rfl

theorem Cpu.hostRead16_zero (x : HostReg16) : Cpu.zero.hostRead16 x = 0 := by cases x <;> rfl

theorem Cpu.hostReadBit_zero (x : HostBit) : Cpu.zero.hostReadBit x = false := by cases x <;> rfl

end Sys2Proof.Machine

open Sys2Proof Sys2Proof.Machine

/-- Settles O56: an accepted call is `serves_takeInterrupt`; a call that is not accepted answers the state itself. -/
theorem interruptIsTakenExactlyWhenEnabled : Obligations.InterruptIsTakenExactlyWhenEnabled := by
  unfold Obligations.InterruptIsTakenExactlyWhenEnabled
  intro s hf
  refine ⟨fun hno => ?_, fun hiff hshadow back vector target acts pushed hback hvector hpushed htarget hacts => ?_⟩
  · have hrefuse : ¬interruptAccepted s = true := by
      rw [interruptAccepted_iff hf]
      rcases hno with h | h <;> simp [h]
    rw [interrupt, if_neg hrefuse, outcome_eq_next.mpr ⟨hf, rfl⟩]
  · have h := serves_takeInterrupt hf hback hvector hpushed htarget hacts
    rw [interrupt, if_pos ((interruptAccepted_iff hf).mpr ⟨hiff, hshadow⟩)]
    exact ⟨fun b hb => by rw [h.outcome_next hb], fun hn => by rw [h.outcome_fault hn]⟩

/-- Settles O57, by `serves_takeNmi`. -/
theorem nmiIsAlwaysTaken : Obligations.NmiIsAlwaysTaken := by
  unfold Obligations.NmiIsAlwaysTaken
  intro s back hf hback
  rw [nmi_of_no_fault hf]
  exact ⟨fun b => (serves_takeNmi hf hback).outcome_next, (serves_takeNmi hf hback).outcome_fault⟩

/-- Settles O10, action by action (`hostAct_inv`); on a faulted state a call does nothing. -/
theorem everyHostActionKeepsTheInvariant : Obligations.EveryHostActionKeepsTheInvariant := by
  unfold Obligations.EveryHostActionKeepsTheInvariant
  intro call s h
  unfold hostStep
  split
  · exact h
  · next hf => exact hostAct_inv hf h call

/-- Settles O9: the registers are those of `Cpu.zero`, and no address differs from the map at creation. -/
theorem resetStateMeetsTheInvariant : Obligations.ResetStateMeetsTheInvariant := by
  unfold Obligations.ResetStateMeetsTheInvariant
  refine ⟨⟨⟨.nil, nofun⟩, .nil, nofun⟩, rfl, rfl, Cpu.hostRead8_zero, Cpu.hostRead16_zero, Cpu.hostReadBit_zero, rfl,
    fun a => ?_⟩
  have hmap : State.reset.isReadOnly a = readOnlyAtCreation a := Bool.xor_false _
  rw [hmap]
  exact decide_eq_decide.mpr Nat.lt_succ_iff

/-- Settles O58: the hard reset leaves `Cpu.zero`, the soft one what its rule lists. -/
theorem hardAndSoftResetLeaveTheStatedRegisters : Obligations.HardAndSoftResetLeaveTheStatedRegisters := by
  unfold Obligations.HardAndSoftResetLeaveTheStatedRegisters
  exact fun s => ⟨⟨.zero, rfl, Cpu.hostRead8_zero, Cpu.hostRead16_zero, Cpu.hostReadBit_zero, rfl⟩, rfl⟩

end

section
/-! PROOFS. The step: the instruction at PC, and what playing its Cycles line does to the counter and the trace. -/

namespace Sys2Proof.Machine

/-! ### The instruction at PC (rule R523) -/

/-- The four bytes that stand `n` bytes behind PC, addresses modulo 65536. -/
def State.bytesBehind (s : State) (n : Nat) : List Byte :=
  (List.range 4).map fun k => s.byteAt (s.cpu.pc + BitVec.ofNat 16 (n + k))

/-- Where an encoding stands at PC, it and the bytes behind it are what the fetch reads. -/
theorem getD_encode_append {s : State} {i : Instr} {k : Nat} (hk : k < 4)
    (h : ∀ k, k < (encode i).length → s.byteAt (s.cpu.pc + BitVec.ofNat 16 k) = (encode i).getD k 0) :
    (encode i ++ s.bytesBehind (encode i).length).getD k 0 = s.byteAt (s.cpu.pc + BitVec.ofNat 16 k) := by
  rcases Nat.lt_or_ge k (encode i).length with hlt | hge
  · rw [List.getD_append _ _ _ _ hlt, h k hlt]
  · obtain ⟨j, rfl⟩ := Nat.exists_eq_add_of_le hge
    have hj : j < 4 := by omega
    rw [List.getD_append_right _ _ _ _ hge, Nat.add_sub_cancel_left]
    simp [State.bytesBehind, hj]

theorem fetchInstr_eq {s : State} {i : Instr} (hi : i.wellFormed = true)
    (h : ∀ k, k < (encode i).length → s.byteAt (s.cpu.pc + BitVec.ofNat 16 k) = (encode i).getD k 0) :
    fetchInstr s = i := by
  have hread := decodeHead_encode i hi (s.bytesBehind (encode i).length)
  rw [decodeHead, getD_encode_append (by decide) h, getD_encode_append (by decide) h,
    getD_encode_append (by decide) h, getD_encode_append (by decide) h] at hread
  rw [fetchInstr, ← hread]
  simp

/-! ### Time and trace of a schedule (rules R91, R107) -/

theorem Bus.le_of_tick_eq_some {table : Bool} {n : Nat} {a b : Bus} (h : a.tick table n = some b) :
    a.time + n ≤ b.time ∧ b.trace = a.trace := by
  unfold Bus.tick at h
  split at h
  · split at h
    · cases h
      exact ⟨Nat.add_le_add_right (Nat.le_add_right _ _) n, rfl⟩
    · cases h
  · cases h
    exact ⟨le_rfl, rfl⟩

/-- `b'` is `b` at a later time or the same, with events added whose times lie between the two. -/
def Bus.Extends (b b' : Bus) : Prop :=
  b.time ≤ b'.time ∧ ∃ evs, b'.trace = b.trace ++ evs ∧ ∀ x ∈ evs, b.time ≤ x.time ∧ x.time ≤ b'.time

namespace Bus.Extends

variable {a b c : Bus}

theorem refl (b : Bus) : b.Extends b := ⟨le_rfl, [], by simp, nofun⟩

theorem trans (h : a.Extends b) (h2 : b.Extends c) : a.Extends c := by
  obtain ⟨hab, xs, hb, hxs⟩ := h
  obtain ⟨hbc, ys, hc, hys⟩ := h2
  refine ⟨hab.trans hbc, xs ++ ys, by rw [hc, hb, List.append_assoc], fun x hx => ?_⟩
  rcases List.mem_append.mp hx with hx | hx
  · exact ⟨(hxs x hx).1, (hxs x hx).2.trans hbc⟩
  · exact ⟨hab.trans (hys x hx).1, (hys x hx).2⟩

theorem record (h : a.Extends b) (k : BusKind) (p : Word) (v : Byte) : a.Extends (b.record k p v) :=
  h.trans ⟨le_rfl, [⟨b.time, k, p, v⟩], rfl, by simp [Bus.record]⟩

theorem tick {table : Bool} {n : Nat} (h : a.tick table n = some b) : a.Extends b := by
  obtain ⟨htime, htrace⟩ := le_of_tick_eq_some h
  exact ⟨by omega, [], by rw [htrace, List.append_nil], nofun⟩

theorem ticks {table : Bool} {n : Nat} (h : Bus.ticks table n a = some b) : a.Extends b := by
  induction n generalizing a with
  | zero => exact Option.some.inj h ▸ refl a
  | succ n ih =>
    obtain ⟨mid, hmid, hrest⟩ := Option.bind_eq_some_iff.mp h
    exact (tick hmid).trans (ih hrest)

theorem portCycle {p : Word} (h : a.portCycle p = some b) : a.Extends b := by
  unfold Bus.portCycle at h
  split at h
  · obtain ⟨mid, hmid, hrest⟩ := Option.bind_eq_some_iff.mp h
    exact (tick hmid).trans (tick hrest)
  · exact ticks h
  · exact tick h

theorem of_map_record {r : Option Bus} {k : BusKind} {p : Word} {v : Byte} (h : r.map (Bus.record k p v) = some b)
    (hr : ∀ c, r = some c → a.Extends c) : a.Extends b := by
  obtain ⟨c, hc, rfl⟩ := Option.map_eq_some_iff.mp h
  exact (hr c hc).record k p v

theorem act {rd : Word → Byte} {x : Act} (h : x.play rd a = some b) : a.Extends b := by
  cases x with
  | m1 p | mr p | mw p v => exact of_map_record h fun _ => tick
  | ic p n => exact ticks h
  | ior p | iow p v => exact of_map_record h fun _ => portCycle

theorem play {rd : Word → Byte} {acts : List Act} (h : Machine.play rd acts a = some b) : a.Extends b := by
  induction acts generalizing a with
  | nil => exact Option.some.inj h ▸ refl a
  | cons x rest ih =>
    obtain ⟨mid, hmid, hrest⟩ := Option.bind_eq_some_iff.mp h
    exact (act hmid).trans (ih hrest)

end Bus.Extends

/-- Every Cycles line begins with the opcode fetch at PC. -/
theorem exists_cycles_eq_cons (i : Instr) (s : State) : ∃ rest, cycles i s = .m1 s.cpu.pc :: rest := by
  cases i with
  | _ => exact ⟨_, rfl⟩

/-- What a schedule that begins with an opcode fetch does to the counter and the trace. -/
theorem play_m1_cons {rd : Word → Byte} {pc : Word} {rest : List Act} {a b : Bus}
    (h : play rd (.m1 pc :: rest) a = some b) :
    ∃ t evs, a.time + 4 ≤ t ∧ t ≤ b.time ∧ b.trace = a.trace ++ ⟨t, .m1, pc, rd pc⟩ :: evs ∧
      ∀ x ∈ evs, t ≤ x.time ∧ x.time ≤ b.time := by
  obtain ⟨mid, hmid, hrest⟩ := Option.bind_eq_some_iff.mp h
  obtain ⟨b1, hb1, rfl⟩ := Option.map_eq_some_iff.mp hmid
  obtain ⟨htime, htrace⟩ := Bus.le_of_tick_eq_some hb1
  obtain ⟨hle, evs, hevs, htimes⟩ := Bus.Extends.play hrest
  refine ⟨b1.time, evs, htime, hle, ?_, htimes⟩
  rw [hevs, Bus.record, htrace, List.append_assoc]
  rfl

end Sys2Proof.Machine

open Sys2Proof Sys2Proof.Machine

/-- Settles O5: the bytes at PC are read back as `i` (`fetchInstr_eq`), and the step is `exec` of what was fetched. -/
theorem stepRunsTheInstructionAtPc : Obligations.StepRunsTheInstructionAtPc := by
  unfold Obligations.StepRunsTheInstructionAtPc
  refine ⟨fun s i hf hi hbytes => ?_, fun s r hr => ?_⟩
  · simp only [step, hf, fetchInstr_eq hi hbytes]
  · simp only [step, hr]

/-- Settles O11: a step plays the Cycles line of its instruction, which begins with the opcode fetch at PC
(`play_m1_cons`). -/
theorem everyStepAdvancesTimeAndExtendsTheTrace : Obligations.EveryStepAdvancesTimeAndExtendsTheTrace := by
  unfold Obligations.EveryStepAdvancesTimeAndExtendsTheTrace
  intro s u h
  obtain ⟨c, b, hb, rfl⟩ := behind_of_exec_next (exec_of_step_next h)
  obtain ⟨rest, hcyc⟩ := exists_cycles_eq_cons (fetchInstr s) s
  rw [hcyc] at hb
  obtain ⟨t, evs, hstart, hend, htrace, htimes⟩ := play_m1_cons hb
  rw [State.bus_time] at hstart
  have hlt : s.t < t := by omega
  refine ⟨hstart.trans hend, _, evs, htrace, rfl, rfl, rfl, fun x hx => ?_⟩
  rcases List.mem_cons.mp hx with rfl | hx
  · exact ⟨hlt, hend⟩
  · obtain ⟨hlo, hhi⟩ := htimes x hx
    exact ⟨hlt.trans_le hlo, hhi⟩

end
